-- ==== Sys2Proof/Word.lean ====
section
/-! DEFINITION. The word types of the block: a register of the host map is 32 bits (10_state.md R22), a buffer byte 8. -/

namespace Sys2Proof

/-- A host register or a host bus word. -/
abbrev Word := BitVec 32

/-- A byte of a buffer, a character of the wire. -/
abbrev Byte := BitVec 8

end Sys2Proof
end

