-- ==== Sys2Proof/Config.lean ====
section
/-! DEFINITION. The parameters of the block at the values and defaults of 00_scope.md R8 and R9 (log entry 1), the names of
its byte buffers, and the free value of a buffer byte that nothing has written (log entry 4). -/

namespace Sys2Proof

namespace Config

/-- Number of ports after reset (R8: 1 to 4, default 4). The rules read the length of `State.ports`. -/
abbrev nports : Nat := 4

/-- DMX_MAX_SLOTS (R8). -/
abbrev dmxMaxSlots : Nat := 512

/-- DMX_FRAME_BYTES (R8). -/
abbrev dmxFrameBytes : Nat := 513

/-- log2 of TX_SLOTS = 2 (R8): a transmit slot is selected by this many bits. -/
abbrev txSlotBits : Nat := 1

/-- CHAR_TIME_US (R8). -/
abbrev charTimeUs : Nat := 44

/-- DMX_SC (R8). -/
abbrev dmxSc : Byte := 0x00#8

/-- DISC_TERMINATOR (R8). -/
abbrev discTerminator : Byte := 0xAA#8

/-- DISC_PREAMBLE_MAX (R8): the largest preamble of a well-formed discovery response. The receive machine accepts it without
testing for it (41_receive_fsm.md R186, 90_conflicts.md C8). -/
abbrev discPreambleMax : Nat := 7

/-- DISC_FALLBACK_COUNT (R8). -/
abbrev discFallbackCount : Nat := 9

/-- DISC_CHECKSUM_BYTES (R8). -/
abbrev discChecksumBytes : Nat := 4

/-- STATS_WINDOW_US (R8). -/
abbrev statsWindowUs : Nat := 1000000

/-- RDM_SC (R9). -/
abbrev rdmSc : Byte := 0xCC#8

/-- RDM_SUB_SC (R9). -/
abbrev rdmSubSc : Byte := 0x01#8

/-- UID_LEN (R9). -/
abbrev uidLen : Nat := 6

/-- TN_OFFSET = 3 + 2·UID_LEN (R9). -/
abbrev tnOffset : Nat := 3 + 2 * uidLen

/-- RDM_BUF_BYTES (R9). -/
abbrev rdmBufBytes : Nat := 258

/-- RDM_ML_MAX (R9). -/
abbrev rdmMlMax : Nat := 255

/-- log2 of DMX_RING_ENTRIES = 4 (R9: a power of two, at least 2). -/
abbrev dmxRingBits : Nat := 2

/-- log2 of RDM_RING_ENTRIES = 8 (R9: a power of two, at least 2). -/
abbrev rdmRingBits : Nat := 3

/-- MIN_BREAK_TO_BREAK_US (R9). -/
abbrev minBreakToBreakUs : Nat := 1204

/-- BREAK_TIME_MIN_US (R9). -/
abbrev breakTimeMinUs : Nat := 92

/-- MAB_TIME_MIN_US (R9). -/
abbrev mabTimeMinUs : Nat := 12

/-- BREAK_RESET_US (R9). -/
abbrev breakResetUs : Nat := 176

/-- MAB_RESET_US (R9). -/
abbrev mabResetUs : Nat := 12

/-- TIMER_RESET_US (R9). -/
abbrev timerResetUs : Nat := 1204

/-- RDM_BREAK_US (R9). -/
abbrev rdmBreakUs : Nat := 176

/-- RDM_MAB_US (R9). -/
abbrev rdmMabUs : Nat := 12

/-- RDM_TURNAROUND_US (R9). -/
abbrev rdmTurnaroundUs : Nat := 176

/-- RDM_DIR_SWITCH_DELAY_US (R9). -/
abbrev rdmDirSwitchDelayUs : Nat := 4

/-- RX_IDLE_TIMEOUT_US (R9). -/
abbrev rxIdleTimeoutUs : Nat := 176

/-- MICROS_BITS (R9). -/
abbrev microsBits : Nat := 32

/-- Size of PBUF in bytes (10_state.md R23). -/
abbrev pbufBytes : Nat := 512

/-- The bytes of RBUF that can carry data (10_state.md R23); bytes 513 to 515 read 0 (20_memory.md R88). -/
abbrev rbufDataBytes : Nat := 513

end Config

/-- A value of the free-running microsecond counter, or a timestamp taken from it (10_state.md R33, R55, R56). -/
abbrev Micros := BitVec Config.microsBits

/-- The byte buffers of the block (20_memory.md R80, R88): the two on the host bus and the internal ones, by port, and by
transmit slot or ring entry. -/
inductive BufId where
  | pbuf
  | rbuf
  | txBuf (port : Nat) (slot : BitVec Config.txSlotBits)
  | dmxRing (port : Nat) (entry : BitVec Config.dmxRingBits)
  | rdmRing (port : Nat) (entry : BitVec Config.rdmRingBits)
  deriving DecidableEq, Repr

/-- The number of bytes of a buffer (10_state.md R23, R47, R51, R52). -/
def BufId.size : BufId → Nat
  | .pbuf => Config.pbufBytes
  | .rbuf => Config.rbufDataBytes
  | .txBuf _ _ => Config.dmxFrameBytes
  | .dmxRing _ _ => Config.dmxFrameBytes
  | .rdmRing _ _ => Config.rdmBufBytes

/-- FREE VALUE (log entry 4): what byte `index` of the buffer `id` reads as while no rule and no host write has written it
since the `epoch`-th reset (10_state.md R60, 70_reset_and_hazards.md R361: "A model treats such a byte as an arbitrary
value."). No body: nothing can be proved of its value. -/
opaque Config.unwritten (epoch : Nat) (id : BufId) (index : Nat) : BitVec 8

end Sys2Proof
end

