-- ==== Sys2Proof/Syntax.lean ====
section
/-! DEFINITION. The command set: one constructor per row of spec/opcode_table.json (30_encoding.md R113), operands at the
widths of R112, and the three formats of R111. -/

namespace Sys2Proof

/-- The command formats of 30_encoding.md R111. -/
inductive Format where
  /-- global: the port field must be 0 -/
  | g
  /-- a port operand -/
  | p
  /-- a port operand and the ARG register -/
  | pa
  deriving DecidableEq, Repr

/-- A command (30_encoding.md R113). Every operand is unsigned (R112). An operand value that a command's own rule calls illegal
is a term here and completes with an error code when it runs; a word with a must-be-zero bit set is no term (Decode.lean). -/
inductive Instr where
  | nop
  | setBreak (us : BitVec 20)
  | setMab (us : BitVec 20)
  | setPeriod (us : BitVec 20)
  | setSlots (n : BitVec 10)
  | setDir (port : BitVec 4) (e : BitVec 1) (d : BitVec 2)
  | txdata (port : BitVec 4) (len : BitVec 10)
  | getDmx (port : BitVec 4)
  | getUps (port : BitVec 4)
  | rdmSendraw (port : BitVec 4) (len : BitVec 10)
  | rdmSend (port : BitVec 4)
  | rdmRecv (port : BitVec 4)
  | rdmRecvTo (port : BitVec 4)
  | rdmRespondRaw (port : BitVec 4) (len : BitVec 10)
  | rdmRespondDisc (port : BitVec 4) (len : BitVec 10)
  deriving DecidableEq, Repr

end Sys2Proof
end

