-- ==== Sys2Proof/WellFormed.lean ====
section
/-! DEFINITION. The checks on a command's operands that need no state: the ones whose failure 30_encoding.md R115 reports as
E_PORT, E_OPERAND or E_LENGTH whatever the block's state. -/

namespace Sys2Proof

/-- The port operand is below NPORTS (30_encoding.md R110, R115). -/
def portInRange (port : BitVec 4) : Bool := port.toNat < Config.nports

/-- A raw-send length is 1 to 512 (30_encoding.md R117, E_LENGTH). -/
def rawLengthLegal (len : BitVec 10) : Bool := 1 ≤ len.toNat && len.toNat ≤ 512

/-- A slot count is 1 to 512 (40_timing_scheduler.md R149). -/
def slotCountLegal (n : BitVec 10) : Bool := 1 ≤ n.toNat && n.toNat ≤ Config.dmxMaxSlots

/-- A direction operand is INPUT (1) or OUTPUT (2) (44_port_controller.md R291). -/
def directionLegal (d : BitVec 2) : Bool := d == 1#2 || d == 2#2

/-- Every operand of the command has a value its rule allows. -/
def WellFormed : Instr → Bool
  | .nop => true
  | .setBreak _ => true
  | .setMab _ => true
  | .setPeriod _ => true
  | .setSlots n => slotCountLegal n
  | .setDir port _ d => portInRange port && directionLegal d
  | .txdata port _ => portInRange port
  | .getDmx port => portInRange port
  | .getUps port => portInRange port
  | .rdmSendraw port len => portInRange port && rawLengthLegal len
  | .rdmSend port => portInRange port
  | .rdmRecv port => portInRange port
  | .rdmRecvTo port => portInRange port
  | .rdmRespondRaw port len => portInRange port && rawLengthLegal len
  | .rdmRespondDisc port len => portInRange port && rawLengthLegal len

end Sys2Proof
end

