-- ==== Sys2Proof/Decode.lean ====
section
/-! DEFINITION. The decoder of a command word, total on all 2^32 words, rejecting by name (30_encoding.md R110 to R116), and
after it the encoder written from the same table (R112, R113). -/

namespace Sys2Proof

/-- Bits 31:24 of a command word (30_encoding.md R110). -/
def opcodeField (w : Word) : BitVec 8 := w.extractLsb' 24 8

/-- Bits 23:20 of a command word (30_encoding.md R110). -/
def portField (w : Word) : BitVec 4 := w.extractLsb' 20 4

/-- Bits 19:0 of a command word (30_encoding.md R110). -/
def immField (w : Word) : BitVec 20 := w.extractLsb' 0 20

/-- imm[9:0]: a slot count or a byte count (30_encoding.md R112). -/
def imm10 (imm : BitVec 20) : BitVec 10 := imm.extractLsb' 0 10

/-- imm[1:0]: the direction operand of SET_DIR. -/
def immD (imm : BitVec 20) : BitVec 2 := imm.extractLsb' 0 2

/-- imm[2]: the enable operand of SET_DIR. -/
def immE (imm : BitVec 20) : BitVec 1 := imm.extractLsb' 2 1

/-- Why a word is not a command: the first check of 30_encoding.md R115 that it fails, of those a word alone can fail. -/
inductive Reject where
  /-- the opcode is not one of R113 (R116) -/
  | reservedOpcode
  /-- format G with a nonzero port field -/
  | globalPort
  /-- format G, port field 0, a must-be-zero bit of imm is 1 -/
  | globalImm
  /-- format P or PA with a must-be-zero bit of imm at 1; the port field is tested before it, against NPORTS -/
  | portedImm (port : BitVec 4)
  deriving DecidableEq, Repr

/-- The checks of a format G word after its opcode is known; `reserved` says that a must-be-zero bit of imm is 1. -/
def decodeG (w : Word) (reserved : Bool) (i : Instr) : Except Reject Instr :=
  if portField w ≠ 0#4 then .error .globalPort else if reserved then .error .globalImm else .ok i

/-- The check of a format P or PA word after its opcode is known. -/
def decodeP (w : Word) (reserved : Bool) (i : Instr) : Except Reject Instr :=
  if reserved then .error (.portedImm (portField w)) else .ok i

/-- imm[19:0] must be zero. -/
def reservedAll (w : Word) : Bool := immField w != 0#20

/-- imm[19:10] must be zero. -/
def reservedAbove10 (w : Word) : Bool := (immField w).extractLsb' 10 10 != 0#10

/-- imm[19:3] must be zero. -/
def reservedAbove3 (w : Word) : Bool := (immField w).extractLsb' 3 17 != 0#17

/-- The command a word selects (30_encoding.md R113), or why it selects none (R115, R116). -/
def decode (w : Word) : Except Reject Instr :=
  match (opcodeField w).toNat with
  | 0x00 => decodeG w (reservedAll w) .nop
  | 0x01 => decodeG w false (.setBreak (immField w))
  | 0x02 => decodeG w false (.setMab (immField w))
  | 0x03 => decodeG w false (.setPeriod (immField w))
  | 0x04 => decodeG w (reservedAbove10 w) (.setSlots (imm10 (immField w)))
  | 0x10 => decodeP w (reservedAbove3 w) (.setDir (portField w) (immE (immField w)) (immD (immField w)))
  | 0x11 => decodeP w (reservedAbove10 w) (.txdata (portField w) (imm10 (immField w)))
  | 0x12 => decodeP w (reservedAll w) (.getDmx (portField w))
  | 0x13 => decodeP w (reservedAll w) (.getUps (portField w))
  | 0x20 => decodeP w (reservedAbove10 w) (.rdmSendraw (portField w) (imm10 (immField w)))
  | 0x21 => decodeP w (reservedAll w) (.rdmSend (portField w))
  | 0x22 => decodeP w (reservedAll w) (.rdmRecv (portField w))
  | 0x23 => decodeP w (reservedAll w) (.rdmRecvTo (portField w))
  | 0x24 => decodeP w (reservedAbove10 w) (.rdmRespondRaw (portField w) (imm10 (immField w)))
  | 0x25 => decodeP w (reservedAbove10 w) (.rdmRespondDisc (portField w) (imm10 (immField w)))
  | _ => .error .reservedOpcode

/-- The opcode of a command (30_encoding.md R113). -/
def Instr.opcode : Instr → BitVec 8
  | .nop => 0x00#8
  | .setBreak _ => 0x01#8
  | .setMab _ => 0x02#8
  | .setPeriod _ => 0x03#8
  | .setSlots _ => 0x04#8
  | .setDir _ _ _ => 0x10#8
  | .txdata _ _ => 0x11#8
  | .getDmx _ => 0x12#8
  | .getUps _ => 0x13#8
  | .rdmSendraw _ _ => 0x20#8
  | .rdmSend _ => 0x21#8
  | .rdmRecv _ => 0x22#8
  | .rdmRecvTo _ => 0x23#8
  | .rdmRespondRaw _ _ => 0x24#8
  | .rdmRespondDisc _ _ => 0x25#8

/-- The format of a command (30_encoding.md R111). -/
def Instr.format : Instr → Format
  | .nop | .setBreak _ | .setMab _ | .setPeriod _ | .setSlots _ => .g
  | .setDir _ _ _ | .txdata _ _ | .getDmx _ | .getUps _ | .rdmRecv _ => .p
  | .rdmRespondRaw _ _ | .rdmRespondDisc _ _ => .p
  | .rdmSendraw _ _ | .rdmSend _ | .rdmRecvTo _ => .pa

/-- The port field of a command; 0 for format G (30_encoding.md R110). -/
def Instr.portBits : Instr → BitVec 4
  | .nop | .setBreak _ | .setMab _ | .setPeriod _ | .setSlots _ => 0#4
  | .setDir port _ _ | .txdata port _ | .getDmx port | .getUps port | .rdmSendraw port _ => port
  | .rdmSend port | .rdmRecv port | .rdmRecvTo port | .rdmRespondRaw port _ | .rdmRespondDisc port _ => port

/-- The imm field of a command (30_encoding.md R112): its sub-fields in place, the other bits 0. -/
def Instr.immBits : Instr → BitVec 20
  | .nop | .getDmx _ | .getUps _ | .rdmSend _ | .rdmRecv _ | .rdmRecvTo _ => 0#20
  | .setBreak us | .setMab us | .setPeriod us => us
  | .setSlots n => 0#10 ++ n
  | .setDir _ e d => 0#17 ++ e ++ d
  | .txdata _ len | .rdmSendraw _ len | .rdmRespondRaw _ len | .rdmRespondDisc _ len => 0#10 ++ len

/-- The word of a command: `opcode ++ port ++ imm` (30_encoding.md R110, R120). -/
def encode (i : Instr) : Word := i.opcode ++ i.portBits ++ i.immBits

/-- A row of the table of 30_encoding.md R113: `w` selects the command exactly when `w &&& mask = pattern`. -/
structure OpcodeRow where
  mnemonic : String
  pattern : Word
  mask : Word
  deriving DecidableEq, Repr

/-- The mask and match of each command's row, copied from 30_encoding.md R113 and not from the decoder or the encoder. -/
def Instr.row : Instr → OpcodeRow
  | .nop => ⟨"NOP", 0x00000000#32, 0xFFFFFFFF#32⟩
  | .setBreak _ => ⟨"SET_BREAK", 0x01000000#32, 0xFFF00000#32⟩
  | .setMab _ => ⟨"SET_MAB", 0x02000000#32, 0xFFF00000#32⟩
  | .setPeriod _ => ⟨"SET_PERIOD", 0x03000000#32, 0xFFF00000#32⟩
  | .setSlots _ => ⟨"SET_SLOTS", 0x04000000#32, 0xFFFFFC00#32⟩
  | .setDir _ _ _ => ⟨"SET_DIR", 0x10000000#32, 0xFF0FFFF8#32⟩
  | .txdata _ _ => ⟨"TXDATA", 0x11000000#32, 0xFF0FFC00#32⟩
  | .getDmx _ => ⟨"GET_DMX", 0x12000000#32, 0xFF0FFFFF#32⟩
  | .getUps _ => ⟨"GET_UPS", 0x13000000#32, 0xFF0FFFFF#32⟩
  | .rdmSendraw _ _ => ⟨"RDM_SENDRAW", 0x20000000#32, 0xFF0FFC00#32⟩
  | .rdmSend _ => ⟨"RDM_SEND", 0x21000000#32, 0xFF0FFFFF#32⟩
  | .rdmRecv _ => ⟨"RDM_RECV", 0x22000000#32, 0xFF0FFFFF#32⟩
  | .rdmRecvTo _ => ⟨"RDM_RECV_TO", 0x23000000#32, 0xFF0FFFFF#32⟩
  | .rdmRespondRaw _ _ => ⟨"RDM_RESPOND_RAW", 0x24000000#32, 0xFF0FFC00#32⟩
  | .rdmRespondDisc _ _ => ⟨"RDM_RESPOND_DISC", 0x25000000#32, 0xFF0FFC00#32⟩

/-- The command word whose low `nbits` bits are those of `w` and whose other bits are 0. A command is one 32-bit word, which the
host bus carries whole, so no byte order enters. -/
def tableWord (nbits w : Nat) : Word := BitVec.ofNat 32 (w % 2 ^ nbits)

/-- The command the decoder reads from a word numbered as spec/opcode_table.json numbers it. -/
def decodeTableWord (nbits w : Nat) : Option Instr := (decode (tableWord nbits w)).toOption

end Sys2Proof
end

