-- ==== Sys2Proof/Machine/State.lean ====
section
/-! DEFINITION. The state of the block as plain data (10_state.md), the events its environment can send it
(70_reset_and_hazards.md R371), the reasons a step can stop, and the state after reset (10_state.md R60). -/

namespace Sys2Proof.Machine

/-- `dir[p]` (10_state.md R27). -/
inductive Dir where
  | idle
  | input
  | output
  deriving DecidableEq, Repr, Inhabited

/-- `sched_state` (10_state.md R25). `data` is encoded and never entered (90_conflicts.md C1). -/
inductive SchedState where
  | idle
  | brk
  | mab
  | data
  | interFrame
  deriving DecidableEq, Repr, Inhabited

/-- `rx_state[p]` (10_state.md R26). -/
inductive RxState where
  | idle
  | preBreak
  | brk
  | dmxData
  | rdmData
  | checksumHigh
  | checksumLow
  | discPreamble
  | discUid
  | discChecksum
  deriving DecidableEq, Repr, Inhabited

/-- `cmd_phase` (43_rdm_primitives.md R261); `none` is 0, no command in progress. -/
inductive CmdPhase where
  | none
  | wait
  | brk
  | mab
  | data
  | drain
  | post
  | dirA
  | dirB
  | recvWait
  deriving DecidableEq, Repr, Inhabited

/-- The codes of STATUS.ERR (30_encoding.md R117); 6 to 15 are never written. -/
inductive ErrCode where
  | none
  | opcode
  | port
  | operand
  | length
  | portState
  deriving DecidableEq, Repr, Inhabited

/-- An entry of the wire trace of a port (10_state.md R58), with the `micros` it carries. -/
inductive WireEvent where
  | brkOn (t : Micros)
  | brkOff (t : Micros)
  | char (t : Micros) (v : Byte)
  | oeOn (t : Micros)
  | oeOff (t : Micros)
  deriving DecidableEq, Repr

/-- A step the environment can choose (70_reset_and_hazards.md R371). -/
inductive Event where
  /-- the pin `rst` is 1 for this step (R360) -/
  | reset
  /-- a microsecond passes (R372) -/
  | tick
  | hostRead (addr : BitVec 13)
  | hostWrite (addr : BitVec 13) (v : Word)
  | lineError (port : Nat)
  | lineMark (port : Nat)
  | lineChar (port : Nat) (v : Byte)
  deriving DecidableEq, Repr

/-- The bytes of a buffer that have been written, by index, in strictly rising order. An index that is not listed holds no
byte a rule or the host wrote (log entry 4). -/
abbrev Memory := List Host.Cell

/-- The canonical form of a memory: indices strictly rising. An unlisted index has no value, so no entry can equal what an
unlisted index holds, and equal memories are equal lists. -/
abbrev Memory.wf (m : Memory) : Prop := m.Pairwise (fun a b => a.1 < b.1)

/-- A byte buffer: its name, the reset its unwritten bytes date from, and the bytes written since. -/
structure Buffer where
  id : BufId
  epoch : Nat
  cells : Memory
  deriving DecidableEq, Repr

/-- A bank of `2 ^ w` like things, selected by an index of `w` bits. -/
abbrev Bank (α : Type) (w : Nat) := Vector α (2 ^ w)

/-- A bank filled by a function of the index. -/
def Bank.fill {α : Type} (w : Nat) (f : BitVec w → α) : Bank α w :=
  ⟨((List.range (2 ^ w)).map (fun n => f (BitVec.ofNat w n))).toArray, by simp⟩

/-- `tx_buf[p][s]` (10_state.md R47). -/
structure TxSlot where
  data : Buffer
  len : BitVec 10
  deriving DecidableEq, Repr

/-- `dmx_ring[p][i]` (10_state.md R51). -/
structure DmxRecord where
  data : Buffer
  slots : BitVec 10
  updates : Word
  deriving DecidableEq, Repr

/-- `rdm_ring[p][i]` (10_state.md R52). -/
structure RdmBuf where
  data : Buffer
  cksum : BitVec 16
  cursor : BitVec 9
  discCnt : BitVec 4
  deriving DecidableEq, Repr

/-- The state of one port (10_state.md R27, R44, R46 to R55, R58). -/
structure Port where
  dir : Dir
  enableData : Bool
  txset : Bool
  rxState : RxState
  rxQuiet : Word
  rxQuietArmed : Bool
  dmxRing : Bank DmxRecord Config.dmxRingBits
  dmxHead : BitVec Config.dmxRingBits
  dmxTail : BitVec Config.dmxRingBits
  rdmRing : Bank RdmBuf Config.rdmRingBits
  rdmHead : BitVec Config.rdmRingBits
  rdmTail : BitVec Config.rdmRingBits
  rxFrames : Word
  rxFramesPrev : Word
  ups : Word
  rxDoneTs : Micros
  lastSendTs : Micros
  tn : Byte
  txBuf : Bank TxSlot Config.txSlotBits
  txWr : BitVec Config.txSlotBits
  txRd : BitVec Config.txSlotBits
  curLen : BitVec 10
  stgValid : Bool
  stgSlot : BitVec Config.txSlotBits
  stgLen : BitVec 10
  dmaBusy : Bool
  dmaSlot : BitVec Config.txSlotBits
  dmaPos : BitVec 10
  dmaLen : BitVec 10
  thr : Byte
  thrFull : Bool
  tsr : Byte
  tsrBusy : Bool
  tsrRem : BitVec 6
  brk : Bool
  /-- the wire trace, oldest first (R58): recorded, never read by a rule -/
  wire : List WireEvent
  deriving DecidableEq, Repr

/-- The state of the block. -/
structure State where
  /-- `micros` (10_state.md R56) -/
  micros : Micros
  schedState : SchedState
  schedTimer : Word
  period : Word
  breakTime : BitVec 20
  mabTime : BitVec 20
  periodReq : BitVec 20
  slots : BitVec 10
  statsTimer : Word
  cmdWord : Word
  arg : Word
  /-- STATUS.BUSY (10_state.md R29) -/
  busy : Bool
  /-- STATUS.VALID -/
  valid : Bool
  /-- STATUS.OVR -/
  ovr : Bool
  /-- STATUS.ERR -/
  err : ErrCode
  /-- STATUS.OPC -/
  opc : BitVec 8
  result0 : Word
  result1 : Word
  cmdPhase : CmdPhase
  cmdT0 : Micros
  cmdPos : BitVec 10
  cmdLen : BitVec 10
  pbuf : Buffer
  rbuf : Buffer
  /-- the ports 0 to NPORTS - 1, in order; its length is NPORTS -/
  ports : List Port
  /-- the pin `rdata`: the answer to the last read or refused access (log entry 6) -/
  busRdata : Word
  /-- the pin `err`: the answer to the last access (log entry 6) -/
  busErr : Bool
  /-- the model's own: the events still to come, next first (log entry 2) -/
  inputs : List Event
  /-- the model's own: the number of reset steps so far (log entries 4 and 7) -/
  resets : Nat
  deriving DecidableEq, Repr

/-- Why the machine stops. Nothing traps (60_exceptions.md R320) and "every step is total in every state"
(70_reset_and_hazards.md R371), so there is no reason and no constructor: safe, nobody raises one. -/
inductive Fault
  deriving DecidableEq, Repr

/-- Why the model gives a step no meaning. -/
inductive Refusal where
  /-- an instruction whose meaning is not written yet, by its mnemonic; raised by `exec`'s arms only, and by none of them now;
  safe (the machine stops where the hardware goes on) -/
  | notModelled (mnemonic : String)
  deriving DecidableEq, Repr

/-- A buffer whose bytes are unspecified (10_state.md R60): nothing written since reset number `epoch`. -/
def Buffer.unwritten (epoch : Nat) (id : BufId) : Buffer := { id := id, epoch := epoch, cells := [] }

/-- Port `p` after reset (10_state.md R60). `thr`, `tsr` and the working fields of the ring entries are unspecified there and 0
here (DESIGN CHOICE, log entry 5). -/
def Port.reset (epoch p : Nat) : Port where
  dir := .idle
  enableData := false
  txset := false
  rxState := .idle
  rxQuiet := 0#32
  rxQuietArmed := false
  dmxRing := Bank.fill Config.dmxRingBits fun i =>
    { data := Buffer.unwritten epoch (.dmxRing p i), slots := 0#10, updates := 0#32 }
  dmxHead := 0#2
  dmxTail := 0#2
  rdmRing := Bank.fill Config.rdmRingBits fun i =>
    { data := Buffer.unwritten epoch (.rdmRing p i), cksum := 0#16, cursor := 0#9, discCnt := 0#4 }
  rdmHead := 0#3
  rdmTail := 0#3
  rxFrames := 0#32
  rxFramesPrev := 0#32
  ups := 0#32
  rxDoneTs := 0#32
  lastSendTs := 0#32
  tn := 0#8
  txBuf := Bank.fill Config.txSlotBits fun s => { data := Buffer.unwritten epoch (.txBuf p s), len := 0#10 }
  txWr := 0#1
  txRd := 0#1
  curLen := 0#10
  stgValid := false
  stgSlot := 0#1
  stgLen := 0#10
  dmaBusy := false
  dmaSlot := 0#1
  dmaPos := 0#10
  dmaLen := 0#10
  thr := 0#8
  thrFull := false
  tsr := 0#8
  tsrBusy := false
  tsrRem := 0#6
  brk := false
  wire := []

/-- A block of `nports` ports after reset number `epoch` (10_state.md R60, 70_reset_and_hazards.md R360, R362), with no event
pending. -/
def State.afterReset (nports epoch : Nat) : State where
  micros := 0#32
  schedState := .idle
  schedTimer := BitVec.ofNat 32 Config.timerResetUs
  period := 1204#32
  breakTime := BitVec.ofNat 20 Config.breakResetUs
  mabTime := BitVec.ofNat 20 Config.mabResetUs
  periodReq := 0#20
  slots := 512#10
  statsTimer := BitVec.ofNat 32 Config.statsWindowUs
  cmdWord := 0#32
  arg := 0#32
  busy := false
  valid := false
  ovr := false
  err := .none
  opc := 0#8
  result0 := 0#32
  result1 := 0#32
  cmdPhase := .none
  cmdT0 := 0#32
  cmdPos := 0#10
  cmdLen := 0#10
  pbuf := Buffer.unwritten epoch .pbuf
  rbuf := Buffer.unwritten epoch .rbuf
  ports := (List.range nports).map (Port.reset epoch)
  busRdata := 0#32
  busErr := false
  inputs := []
  resets := epoch

/-- The block right after reset, with the default number of ports (00_scope.md R8). -/
def State.reset : State := State.afterReset Config.nports 0

end Sys2Proof.Machine
end

