-- ==== Sys2Proof/Machine/Ops.lean ====
section
/-! DEFINITION. The named operations over buffers, banks, ports and the mailbox that every meaning is written with. Nothing in
the block traps (60_exceptions.md R320): what stands in the place of taking an exception is a command's acceptance and
completion (30_encoding.md R115, R118), written once here as `State.load` and `State.complete`. -/

namespace Sys2Proof.Machine

/-! ### Buffers (20_memory.md R80, R91) -/

/-- The byte written last at an index, if one was. -/
def Memory.byte? (m : Memory) (i : Nat) : Option Byte := m.lookup i

/-- The bytes of a list at rising indices from `a`. -/
def Memory.cellsFrom (a : Nat) : List Byte → Memory
  | [] => []
  | b :: bs => (a, b) :: Memory.cellsFrom (a + 1) bs

/-- Writes the bytes of a list at `a`, `a + 1`, ...; it keeps the canonical form. -/
def Memory.store (m : Memory) (a : Nat) (bs : List Byte) : Memory :=
  m.filter (fun c => c.1 < a) ++ (Memory.cellsFrom a bs ++ m.filter (fun c => a + bs.length ≤ c.1))

/-- Byte `i` of a buffer; an unwritten byte is a free value (10_state.md R60, log entry 4). -/
def Buffer.read (b : Buffer) (i : Nat) : Byte := (b.cells.byte? i).getD (Config.unwritten b.epoch b.id i)

/-- Writes the bytes of a list from index `a` on. -/
def Buffer.store (b : Buffer) (a : Nat) (bs : List Byte) : Buffer := { b with cells := b.cells.store a bs }

/-- Writes one byte. -/
def Buffer.write (b : Buffer) (i : Nat) (v : Byte) : Buffer := b.store i [v]

/-- The `n` bytes from index `a` on. -/
def Buffer.bytes (b : Buffer) (a n : Nat) : List Byte := (List.range n).map (fun k => b.read (a + k))

/-- The four bytes from index `i` on as a little-endian word (20_memory.md R82, R88). -/
def Buffer.word (b : Buffer) (i : Nat) : Word := b.read (i + 3) ++ b.read (i + 2) ++ b.read (i + 1) ++ b.read i

/-- The four bytes of a word, least significant first (20_memory.md R83, R88). -/
def wordBytes (v : Word) : List Byte :=
  [v.extractLsb' 0 8, v.extractLsb' 8 8, v.extractLsb' 16 8, v.extractLsb' 24 8]

/-! ### Banks and ring indices -/

/-- The member of a bank that an index selects. -/
def Bank.get {α : Type} {w : Nat} (v : Bank α w) (i : BitVec w) : α := v[i.toNat]

/-- Replaces the member of a bank that an index selects. -/
def Bank.put {α : Type} {w : Nat} (v : Bank α w) (i : BitVec w) (x : α) : Bank α w := v.set i.toNat x

/-- `next_D` and `next_R`: the following index of a ring of `2 ^ w` entries, wrapping (00_scope.md R10). -/
def nextIndex {w : Nat} (i : BitVec w) : BitVec w := i + 1#w

/-! ### Ports -/

/-- Applies a change to port `p`, if there is one. -/
def State.updPort (p : Nat) (f : Port → Port) (s : State) : State := { s with ports := s.ports.modify p f }

/-- Applies a change to every port, port 0 first. The changes touch disjoint state (42_transmit_pipeline.md R226). -/
def State.eachPort (f : Port → Port) (s : State) : State := { s with ports := s.ports.map f }

/-- `emit p: EVENT` (00_scope.md R10): appends to the wire trace. -/
def Port.emit (e : WireEvent) (q : Port) : Port := { q with wire := q.wire ++ [e] }

/-- Sets the break condition and records it. -/
def Port.breakOn (t : Micros) (q : Port) : Port := Port.emit (.brkOn t) { q with brk := true }

/-- Clears the break condition and records it. -/
def Port.breakOff (t : Micros) (q : Port) : Port := Port.emit (.brkOff t) { q with brk := false }

/-- Puts a byte in the holding register. -/
def Port.loadThr (v : Byte) (q : Port) : Port := { q with thr := v, thrFull := true }

/-- `tx_active(p)` (00_scope.md R12). -/
def Port.txActive (q : Port) : Bool := q.dir == .output && q.enableData

/-- `rx_active(p)` (00_scope.md R12). -/
def Port.rxActive (q : Port) : Bool := q.dir == .input && q.enableData

/-- `tx_empty(p)` (42_transmit_pipeline.md R229). -/
def Port.txEmpty (q : Port) : Bool := !q.thrFull && !q.tsrBusy

/-! ### Time -/

/-- `elapsed(t) = (micros - t) mod 2^32` (00_scope.md R10, 60_exceptions.md R336). -/
def elapsed (micros t : Micros) : Micros := micros - t

/-! ### The mailbox -/

/-- The first half of `accept(w)` (30_encoding.md R115): the word becomes `cmd_word`, OPC takes its opcode byte, and ERR,
VALID, OVR and the results are cleared. RBUF is not cleared. -/
def State.load (w : Word) (s : State) : State :=
  { s with
    cmdWord := w
    opc := opcodeField w
    err := .none
    valid := false
    ovr := false
    result0 := 0#32
    result1 := 0#32 }

/-- `complete(err, valid, r0, r1)` (30_encoding.md R118): ends the command in progress. -/
def State.complete (e : ErrCode) (v : Bool) (r0 r1 : Word) (s : State) : State :=
  { s with
    err := e
    valid := v
    result0 := r0
    result1 := r1
    cmdPhase := .none
    busy := false }

/-- `complete(err)` with no result (30_encoding.md R118). -/
def State.finish (e : ErrCode) (s : State) : State := s.complete e false 0#32 0#32

/-- Starts a command that holds: BUSY is set and `cmd_phase` takes the command's first phase (30_encoding.md R118). -/
def State.hold (ph : CmdPhase) (s : State) : State := { s with busy := true, cmdPhase := ph }

/-- Writes bytes of PBUF from index `i` on. -/
def State.storePbuf (i : Nat) (bs : List Byte) (s : State) : State := { s with pbuf := s.pbuf.store i bs }

/-- Writes bytes of RBUF from index `i` on. -/
def State.storeRbuf (i : Nat) (bs : List Byte) (s : State) : State := { s with rbuf := s.rbuf.store i bs }

/-- Byte `i` of the buffer `id` of the block: the one read through which a statement says what memory holds. A buffer of a port
that does not exist has no byte; it reads as the free value of its name. -/
def State.byteAt (s : State) (id : BufId) (i : Nat) : Byte :=
  match id with
  | .pbuf => s.pbuf.read i
  | .rbuf => s.rbuf.read i
  | .txBuf p k =>
    match s.ports[p]? with
    | some q => (q.txBuf.get k).data.read i
    | none => Config.unwritten s.resets id i
  | .dmxRing p k =>
    match s.ports[p]? with
    | some q => (q.dmxRing.get k).data.read i
    | none => Config.unwritten s.resets id i
  | .rdmRing p k =>
    match s.ports[p]? with
    | some q => (q.rdmRing.get k).data.read i
    | none => Config.unwritten s.resets id i

end Sys2Proof.Machine
end

