-- ==== Sys2Proof/Machine/Flags.lean ====
section
/-! DEFINITION. The encodings of the enumerations (10_state.md R25 to R27) and the packing of every flag and status register
the host reads (10_state.md R29, R34, R37 to R42). The flags STATUS holds are written by `State.load`, `State.complete` and
`State.hold` of Ops.lean and by the ignored writes of Bus.lean. -/

namespace Sys2Proof.Machine

/-- `dir[p]` as its code (10_state.md R27). -/
def Dir.bits : Dir → BitVec 2
  | .idle => 0#2
  | .input => 1#2
  | .output => 2#2

/-- `sched_state` as its code (10_state.md R25). -/
def SchedState.bits : SchedState → BitVec 3
  | .idle => 0#3
  | .brk => 1#3
  | .mab => 2#3
  | .data => 3#3
  | .interFrame => 4#3

/-- `rx_state[p]` as its code (10_state.md R26). -/
def RxState.bits : RxState → BitVec 4
  | .idle => 0#4
  | .preBreak => 1#4
  | .brk => 2#4
  | .dmxData => 3#4
  | .rdmData => 4#4
  | .checksumHigh => 5#4
  | .checksumLow => 6#4
  | .discPreamble => 7#4
  | .discUid => 8#4
  | .discChecksum => 9#4

/-- The code of STATUS.ERR (30_encoding.md R117). -/
def ErrCode.bits : ErrCode → BitVec 4
  | .none => 0#4
  | .opcode => 1#4
  | .port => 2#4
  | .operand => 3#4
  | .length => 4#4
  | .portState => 5#4

/-- A flag as one bit. -/
def flag (b : Bool) : BitVec 1 := BitVec.ofBool b

/-- STATUS (10_state.md R29), most significant field first. -/
def State.statusWord (s : State) : Word :=
  0#16 ++ s.opc ++ s.err.bits ++ 0#1 ++ flag s.ovr ++ flag s.valid ++ flag s.busy

/-- SCHED (10_state.md R34). -/
def State.schedWord (s : State) : Word := 0#29 ++ s.schedState.bits

/-- HWCFG (10_state.md R37). -/
def State.hwcfgWord (s : State) : Word :=
  Config.rdmSubSc ++ Config.rdmSc ++ BitVec.ofNat 4 Config.uidLen ++ BitVec.ofNat 4 Config.rdmRingBits
    ++ BitVec.ofNat 4 Config.dmxRingBits ++ BitVec.ofNat 4 s.ports.length

/-- PSTAT[p] (10_state.md R38), most significant field first. -/
def Port.pstatWord (q : Port) : Word :=
  0#15 ++ flag q.rxQuietArmed ++ q.txRd ++ q.txWr ++ q.stgSlot ++ flag q.stgValid ++ flag q.dmaBusy ++ flag q.tsrBusy
    ++ flag q.thrFull ++ flag q.brk ++ q.rxState.bits ++ flag q.txset ++ flag q.enableData ++ q.dir.bits

/-- RINGS[p] (10_state.md R39), most significant field first. -/
def Port.ringsWord (q : Port) : Word :=
  q.rdmTail.zeroExtend 8 ++ q.rdmHead.zeroExtend 8 ++ q.dmxTail.zeroExtend 8 ++ q.dmxHead.zeroExtend 8

/-- LENS[p] (10_state.md R42), most significant field first. -/
def Port.lensWord (q : Port) : Word := 0#6 ++ q.stgLen ++ 0#6 ++ q.curLen

end Sys2Proof.Machine
end

