-- ==== Sys2Proof/Machine/Operands.lean ====
section
/-! DEFINITION. The operand forms of the commands (30_encoding.md R111, R112): the port operand with its range check, the
direction operand, the length operands, and the operands a command takes from the mailbox. -/

namespace Sys2Proof.Machine

/-- The port operand (30_encoding.md R115): a port that does not exist completes the command with E_PORT; otherwise `k` runs on
the port's index and state. -/
def State.withPort (port : BitVec 4) (s : State) (k : Nat → Port → State) : State :=
  match s.ports[port.toNat]? with
  | none => s.finish .port
  | some q => k port.toNat q

/-- The direction operand (30_encoding.md R112, 44_port_controller.md R291): 0 and 3 are illegal. -/
def dirOperand (d : BitVec 2) : Option Dir := if d = 1#2 then some .input else if d = 2#2 then some .output else none

/-- The enable operand of SET_DIR. -/
def enableOperand (e : BitVec 1) : Bool := e == 1#1

/-- A slot count operand is legal (40_timing_scheduler.md R149). -/
def slotsOperandLegal (n : BitVec 10) : Bool := n.toNat != 0 && n.toNat ≤ Config.dmxMaxSlots

/-- A raw-send length operand is legal (43_rdm_primitives.md R255, R259, R260). -/
def lengthOperandLegal (len : BitVec 10) : Bool := len.toNat != 0 && len.toNat ≤ 512

/-- The declared length `ML = PBUF[2]` of the message in PBUF (43_rdm_primitives.md R251, R256). -/
def State.messageLength (s : State) : Nat := (s.pbuf.read 2).toNat

/-- The port of the command in progress, `cmd_word[23:20]` (43_rdm_primitives.md R261). -/
def State.cmdPort (s : State) : Nat := (portField s.cmdWord).toNat

end Sys2Proof.Machine
end

