-- ==== Sys2Proof/Machine/PortControl.lean ====
section
/-! DEFINITION. The port controller (44_port_controller.md): SET_DIR and the drain, stop, switch and enable procedures. -/

namespace Sys2Proof.Machine

/-- `StopReceive(p)` (R294). -/
def Port.stopReceive (q : Port) : Port := { q with rxState := .idle, rxQuietArmed := false }

/-- The record of the driver enable's edge in `SwitchTo(p, d)` (R295, 10_state.md R58). -/
def Port.emitSwitch (d : Dir) (t : Micros) (q : Port) : Port :=
  if q.dir ≠ .output ∧ d = .output then q.emit (.oeOn t)
  else if q.dir = .output ∧ d ≠ .output then q.emit (.oeOff t)
  else q

/-- `SwitchTo(p, d)` (R295). -/
def Port.switchTo (d : Dir) (t : Micros) (q : Port) : Port :=
  let q' := { Port.emitSwitch d t q with dir := d }
  if d = .input then q'.stopReceive else q'

/-- `Enable(p)` (R296). -/
def Port.enable (q : Port) : Port := { q with enableData := true }

/-- `enable_data[p] <- 0` (R293). -/
def Port.disable (q : Port) : Port := { q with enableData := false }

/-- The port part of `Finish()` (R290): switch if the direction differs, then enable if asked. -/
def Port.finishDir (d : Dir) (e : Bool) (t : Micros) (q : Port) : Port :=
  let q' := if d ≠ q.dir then Port.switchTo d t q else q
  if e then q'.enable else q'

/-- `Finish()` (R290). -/
def State.finishDir (p : Nat) (d : Dir) (e : Bool) (s : State) : State :=
  (s.updPort p (Port.finishDir d e s.micros)).finish .none

/-- The drain of R293 where it needs no waiting: an INPUT port stops receiving and is disabled, any other is left alone. -/
def Port.drainNow (q : Port) : Port := if q.dir = .input then q.stopReceive.disable else q

/-- SET_DIR p, d, e (R290, R293): the accepting write. -/
def execSetDir (port : BitVec 4) (e : BitVec 1) (d : BitVec 2) (s : State) : Host.Outcome State Fault Refusal :=
  .next (s.withPort port fun p q =>
    match dirOperand d with
    | none => s.finish .operand
    | some dir =>
      if dir = q.dir ∧ enableOperand e = q.enableData then s.finish .none
      else if dir = q.dir ∧ enableOperand e = true then (s.updPort p Port.enable).finish .none
      else if q.dir = .output ∧ q.enableData = true then s.hold .dirA
      else (s.updPort p Port.drainNow).finishDir p dir (enableOperand e))

/-- Phase 7 DIR_A (R293). -/
def State.phaseDirA (p : Nat) (s : State) : State :=
  if s.schedState = .interFrame then { s.updPort p Port.disable with cmdPhase := .dirB } else s

/-- Phase 8 DIR_B (R293), with the operands of the SET_DIR in progress, taken from `cmd_word` (43_rdm_primitives.md R261). -/
def State.phaseDirB (p : Nat) (q : Port) (s : State) : State :=
  if !q.dmaBusy && q.txEmpty then
    match dirOperand (immD (immField s.cmdWord)) with
    | some d => s.finishDir p d (enableOperand (immE (immField s.cmdWord)))
    | none => s
  else s

end Sys2Proof.Machine
end

