-- ==== Sys2Proof/Machine/Rdm.lean ====
section
/-! DEFINITION. The RDM primitives (43_rdm_primitives.md): the checksum, the six commands, the phases of the raw transmit
procedure, and the command engine's share of a tick. -/

namespace Sys2Proof.Machine

/-- `Checksum(b, n)` (R250): the sum of the bytes modulo 65536. -/
def checksum (bs : List Byte) : BitVec 16 := BitVec.ofNat 16 (bs.map BitVec.toNat).sum

/-! ### Acceptance (R252, R255, R256, R259, R260) -/

/-- The port state three of the raw sends require (R252). -/
def Port.rawSendReady (q : Port) : Bool := q.dir == .output && !q.enableData

/-- Starts a raw send of `len` bytes: phase 1. -/
def State.startRaw (len : BitVec 10) (s : State) : State := State.hold .wait { s with cmdLen := len }

/-- The checks and the start shared by the sends with a length operand: E_LENGTH, then E_PORTSTATE. -/
def State.acceptRaw (len : BitVec 10) (ready : Bool) (s : State) : State :=
  if !lengthOperandLegal len then s.finish .length
  else if !ready then s.finish .portState
  else s.startRaw len

/-- RDM_SENDRAW p, len (R255). -/
def execRdmSendraw (port : BitVec 4) (len : BitVec 10) (s : State) : Host.Outcome State Fault Refusal :=
  .next (s.withPort port fun _ q => s.acceptRaw len q.rawSendReady)

/-- RDM_SEND p (R256). -/
def execRdmSend (port : BitVec 4) (s : State) : Host.Outcome State Fault Refusal :=
  .next (s.withPort port fun _ q =>
    if s.messageLength ≤ Config.tnOffset then s.finish .length
    else if !q.rawSendReady then s.finish .portState
    else s.startRaw (BitVec.ofNat 10 (s.messageLength + 2)))

/-- RDM_RESPOND_RAW p, len (R259). -/
def execRdmRespondRaw (port : BitVec 4) (len : BitVec 10) (s : State) : Host.Outcome State Fault Refusal :=
  .next (s.withPort port fun _ q => s.acceptRaw len q.rawSendReady)

/-- RDM_RESPOND_DISC p, len (R260): only a tx_active port is refused. -/
def execRdmRespondDisc (port : BitVec 4) (len : BitVec 10) (s : State) : Host.Outcome State Fault Refusal :=
  .next (s.withPort port fun _ q => s.acceptRaw len (!q.txActive))

/-! ### Receiving (R257, R258) -/

/-- `Deliver(p)` (R257). -/
def State.deliver (p : Nat) (q : Port) (s : State) : State :=
  let e := q.rdmRing.get q.rdmTail
  ((s.storeRbuf 0 (e.data.bytes 0 e.cursor.toNat)).updPort p
    fun q => { q with rdmTail := nextIndex q.rdmTail }).complete .none true (e.cursor.zeroExtend 32) 0#32

/-- RDM_RECV p (R257). -/
def execRdmRecv (port : BitVec 4) (s : State) : Host.Outcome State Fault Refusal :=
  .next (s.withPort port fun p q => if q.rdmHead = q.rdmTail then s.finish .none else s.deliver p q)

/-- RDM_RECV_TO p (R258): the accepting write. -/
def execRdmRecvTo (port : BitVec 4) (s : State) : Host.Outcome State Fault Refusal :=
  .next (s.withPort port fun p q =>
    let s' : State := { s with cmdT0 := s.micros }
    if q.rdmHead ≠ q.rdmTail then s'.deliver p q
    else if s.arg = 0#32 then s'.finish .none
    else s'.hold .recvWait)

/-- Phase 9 RECV_WAIT (R258). -/
def State.phaseRecvWait (p : Nat) (q : Port) (s : State) : State :=
  if q.rdmHead ≠ q.rdmTail then s.deliver p q
  else if s.arg ≤ elapsed s.micros s.cmdT0 then s.finish .none
  else s

/-! ### The raw transmit procedure (R253) -/

/-- The four transmitting commands. -/
inductive RawSend where
  | sendraw
  | send
  | respondRaw
  | respondDisc
  deriving DecidableEq, Repr

/-- The transmitting command an opcode names; the one in progress is `cmd_word[31:24]` (R261). -/
def rawSendOf (op : BitVec 8) : Option RawSend :=
  if op = 0x20#8 then some .sendraw
  else if op = 0x21#8 then some .send
  else if op = 0x24#8 then some .respondRaw
  else if op = 0x25#8 then some .respondDisc
  else none

/-- The transmitting command in progress (R261). -/
def State.rawSend (s : State) : Option RawSend := rawSendOf (opcodeField s.cmdWord)

/-- The wait condition of phase 1 (R255, R256, R259, R260). -/
def State.waitOver (k : RawSend) (q : Port) (s : State) : Bool :=
  match k with
  | .sendraw => s.arg = 0#32 || s.arg ≤ elapsed s.micros q.lastSendTs
  | .send => s.arg = 0#32 || s.arg ≤ elapsed s.micros q.lastSendTs
  | .respondRaw => Config.rdmTurnaroundUs ≤ (elapsed s.micros q.rxDoneTs).toNat
  | .respondDisc => Config.rdmTurnaroundUs ≤ (elapsed s.micros q.rxDoneTs).toNat

/-- RDM_SEND's preparation (R256): the transaction number goes into the message, then the checksum over it is appended, high
byte first (20_memory.md R89). -/
def State.prepareMessage (q : Port) (s : State) : State :=
  let numbered := s.storePbuf Config.tnOffset [q.tn]
  let ck := checksum (numbered.pbuf.bytes 0 s.messageLength)
  numbered.storePbuf s.messageLength [ck.extractLsb' 8 8, ck.extractLsb' 0 8]

/-- RDM_RESPOND_DISC's preparation (R260): the port stops receiving and is turned to OUTPUT. -/
def Port.turnToOutput (t : Micros) (q : Port) : Port := Port.switchTo .output t q.stopReceive.disable

/-- The command's own preparation in the action of phase 1. -/
def State.prepareRaw (k : RawSend) (p : Nat) (q : Port) (s : State) : State :=
  match k with
  | .sendraw => s
  | .send => s.prepareMessage q
  | .respondRaw => s
  | .respondDisc => s.updPort p (Port.turnToOutput s.micros)

/-- `FirstByte()` (R253). -/
def State.firstByte (p : Nat) (s : State) : State :=
  { s.updPort p (Port.loadThr (s.pbuf.read 0)) with
    cmdPos := 1#10
    cmdPhase := if s.cmdLen = 1#10 then .drain else .data }

/-- Starts a break: every transmitting command but the discovery response (R253). -/
def State.startBreak (p : Nat) (s : State) : State :=
  { s.updPort p (Port.breakOn s.micros) with cmdT0 := s.micros, cmdPhase := .brk }

/-- The action of phase 1 WAIT (R253). -/
def State.beginRaw (k : RawSend) (p : Nat) (q : Port) (s : State) : State :=
  let s' := (s.prepareRaw k p q).updPort p fun q => { q with lastSendTs := s.micros }
  match k with
  | .sendraw => s'.startBreak p
  | .send => s'.startBreak p
  | .respondRaw => s'.startBreak p
  | .respondDisc => s'.firstByte p

/-- Phase 1 WAIT. A `cmd_word` that is no transmitting command has no wait condition: the engine holds (log entry 8). -/
def State.phaseWait (p : Nat) (q : Port) (s : State) : State :=
  match s.rawSend with
  | none => s
  | some k => if s.waitOver k q then s.beginRaw k p q else s

/-- Phase 2 BREAK. -/
def State.phaseBreak (p : Nat) (s : State) : State :=
  if Config.rdmBreakUs ≤ (elapsed s.micros s.cmdT0).toNat then
    { s.updPort p (Port.breakOff s.micros) with cmdT0 := s.micros, cmdPhase := .mab }
  else s

/-- Phase 3 MAB. -/
def State.phaseMab (p : Nat) (s : State) : State :=
  if Config.rdmMabUs ≤ (elapsed s.micros s.cmdT0).toNat then s.firstByte p else s

/-- Phase 4 DATA. -/
def State.phaseData (p : Nat) (q : Port) (s : State) : State :=
  if !q.thrFull then
    { s.updPort p (Port.loadThr (s.pbuf.read s.cmdPos.toNat)) with
      cmdPos := s.cmdPos + 1#10
      cmdPhase := if s.cmdPos + 1#10 = s.cmdLen then .drain else s.cmdPhase }
  else s

/-- The command's own ending in the action of phase 5 (R255, R256, R259, R260). -/
def State.endRaw (k : RawSend) (p : Nat) (s : State) : State :=
  match k with
  | .sendraw => s.finish .none
  | .send => (s.updPort p fun q => { q with tn := q.tn + 1#8 }).finish .none
  | .respondRaw => s.finish .none
  | .respondDisc => { s with cmdT0 := s.micros, cmdPhase := .post }

/-- Phase 5 DRAIN. -/
def State.phaseDrain (p : Nat) (q : Port) (s : State) : State :=
  if q.txEmpty then
    match s.rawSend with
    | none => s
    | some k => s.endRaw k p
  else s

/-- Phase 6 POST (R260). -/
def State.phasePost (p : Nat) (s : State) : State :=
  if Config.rdmDirSwitchDelayUs ≤ (elapsed s.micros s.cmdT0).toNat then
    (s.updPort p fun q => (Port.switchTo .input s.micros q).enable).finish .none
  else s

/-! ### The command engine in a tick -/

/-- Substep T7 (70_reset_and_hazards.md R372): the guard of the current phase is evaluated once and, if it is true, its action
is performed. The port is `cmd_word[23:20]` (R261). -/
def State.commandStep (s : State) : State :=
  match s.ports[s.cmdPort]? with
  | none => s
  | some q =>
    match s.cmdPhase with
    | .none => s
    | .wait => s.phaseWait s.cmdPort q
    | .brk => s.phaseBreak s.cmdPort
    | .mab => s.phaseMab s.cmdPort
    | .data => s.phaseData s.cmdPort q
    | .drain => s.phaseDrain s.cmdPort q
    | .post => s.phasePost s.cmdPort
    | .dirA => s.phaseDirA s.cmdPort
    | .dirB => s.phaseDirB s.cmdPort q
    | .recvWait => s.phaseRecvWait s.cmdPort q

end Sys2Proof.Machine
end

