-- ==== Sys2Proof/Machine/Receive.lean ====
section
/-! DEFINITION. The receive state machine of a port, the idle timeout, the statistics tick and the receive getters
(41_receive_fsm.md). -/

namespace Sys2Proof.Machine

/-! ### The entries being filled -/

/-- `D = dmx_ring[p][dmx_head[p]]`, the DMX record being filled. -/
def Port.dmxCur (q : Port) : DmxRecord := q.dmxRing.get q.dmxHead

/-- Replaces the DMX record being filled. -/
def Port.setDmxCur (d : DmxRecord) (q : Port) : Port := { q with dmxRing := q.dmxRing.put q.dmxHead d }

/-- `R = rdm_ring[p][rdm_head[p]]`, the RDM decode buffer being filled. -/
def Port.rdmCur (q : Port) : RdmBuf := q.rdmRing.get q.rdmHead

/-- Replaces the RDM decode buffer being filled. -/
def Port.setRdmCur (r : RdmBuf) (q : Port) : Port := { q with rdmRing := q.rdmRing.put q.rdmHead r }

/-- `R.data[R.cursor] <- v; R.cursor <- R.cursor + 1` (R181, R183, R184, R186 to R188). -/
def RdmBuf.append (v : Byte) (r : RdmBuf) : RdmBuf :=
  { r with data := r.data.write r.cursor.toNat v, cursor := r.cursor + 1#9 }

/-! ### Completion and the ring-full policy (R180, R182, R185) -/

/-- The head after a completion: advanced unless that would make it the tail (R182). -/
def publish {w : Nat} (head tail : BitVec w) : BitVec w := if nextIndex head ≠ tail then nextIndex head else head

/-- `CloseDmxFrame(p)` (R180). -/
def Port.closeDmxFrame (q : Port) : Port :=
  { Port.setDmxCur { q.dmxCur with updates := q.rxFrames + 1#32 } q with
    rxFrames := q.rxFrames + 1#32
    dmxHead := publish q.dmxHead q.dmxTail
    rxState := .idle }

/-- `RdmComplete(p)` (R185). -/
def Port.rdmComplete (micros : Micros) (q : Port) : Port :=
  { q with rxDoneTs := micros, rdmHead := publish q.rdmHead q.rdmTail, rxState := .idle }

/-! ### The character rules, one per state -/

/-- LineChar in BREAK (R174, R175, R176). -/
def Port.charInBreak (v : Byte) (q : Port) : Port :=
  if v = Config.dmxSc then
    { Port.setDmxCur { q.dmxCur with data := q.dmxCur.data.write 0 v, slots := 0#10 } q with rxState := .dmxData }
  else if v = Config.rdmSc then
    { Port.setRdmCur { data := q.rdmCur.data.write 0 v, cksum := v.zeroExtend 16, cursor := 1#9, discCnt := 0#4 } q with
      rxState := .rdmData }
  else
    { Port.setRdmCur { data := q.rdmCur.data.write 0 v, cksum := 0#16, cursor := 1#9, discCnt := 0#4 } q with
      rxState := if v = Config.discTerminator then .discUid else .discPreamble }

/-- LineChar in DMX_DATA (R177). -/
def Port.charInDmxData (v : Byte) (q : Port) : Port :=
  let d : DmxRecord :=
    { q.dmxCur with data := q.dmxCur.data.write (1 + q.dmxCur.slots.toNat) v, slots := q.dmxCur.slots + 1#10 }
  let q' := Port.setDmxCur d q
  if d.slots.toNat = Config.dmxMaxSlots then q'.closeDmxFrame else q'

/-- LineChar in RDM_DATA (R181). -/
def Port.charInRdmData (v : Byte) (q : Port) : Port :=
  let r := RdmBuf.append v { q.rdmCur with cksum := q.rdmCur.cksum + v.zeroExtend 16 }
  { Port.setRdmCur r q with
    rxState :=
      if 3 ≤ r.cursor.toNat ∧ r.cursor.toNat = (r.data.read 2).toNat then .checksumHigh
      else if r.cursor.toNat = Config.rdmMlMax then .idle
      else q.rxState }

/-- LineChar in CHECKSUM_HIGH (R183). -/
def Port.charInChecksumHigh (v : Byte) (q : Port) : Port :=
  { Port.setRdmCur (RdmBuf.append v q.rdmCur) q with rxState := .checksumLow }

/-- The two tests at the last checksum byte (R184): the accumulated sum equals the big-endian pair at `data[ML]`, and the
second byte is the sub-start-code. -/
def RdmBuf.accepted (r : RdmBuf) : Bool :=
  let ml := (r.data.read 2).toNat
  r.cksum.toNat == 256 * (r.data.read ml).toNat + (r.data.read (ml + 1)).toNat && r.data.read 1 == Config.rdmSubSc

/-- LineChar in CHECKSUM_LOW (R184). -/
def Port.charInChecksumLow (micros : Micros) (v : Byte) (q : Port) : Port :=
  let q' := Port.setRdmCur (RdmBuf.append v q.rdmCur) q
  if (RdmBuf.append v q.rdmCur).accepted then q'.rdmComplete micros else { q' with rxState := .idle }

/-- LineChar in DISC_PREAMBLE (R186). -/
def Port.charInDiscPreamble (v : Byte) (q : Port) : Port :=
  let r := RdmBuf.append v q.rdmCur
  if v = Config.discTerminator ∨ r.cursor.toNat = Config.discFallbackCount then
    { Port.setRdmCur { r with discCnt := 0#4 } q with rxState := .discUid }
  else Port.setRdmCur r q

/-- LineChar in DISC_UID (R187). -/
def Port.charInDiscUid (v : Byte) (q : Port) : Port :=
  let r := RdmBuf.append v { q.rdmCur with discCnt := q.rdmCur.discCnt + 1#4 }
  if r.discCnt.toNat = 2 * Config.uidLen then
    { Port.setRdmCur { r with discCnt := 0#4 } q with rxState := .discChecksum }
  else Port.setRdmCur r q

/-- LineChar in DISC_CHECKSUM (R188). -/
def Port.charInDiscChecksum (micros : Micros) (v : Byte) (q : Port) : Port :=
  let r := RdmBuf.append v { q.rdmCur with discCnt := q.rdmCur.discCnt + 1#4 }
  let q' := Port.setRdmCur r q
  if r.discCnt.toNat = Config.discChecksumBytes then q'.rdmComplete micros else q'

/-! ### The events of a port (R170 to R179) -/

/-- The rule `rx_state[p]` selects for a character (R173 to R188). -/
def Port.charInState (micros : Micros) (v : Byte) (q : Port) : Port :=
  match q.rxState with
  | .idle => q
  | .preBreak => q
  | .brk => q.charInBreak v
  | .dmxData => q.charInDmxData v
  | .rdmData => q.charInRdmData v
  | .checksumHigh => q.charInChecksumHigh v
  | .checksumLow => q.charInChecksumLow micros v
  | .discPreamble => q.charInDiscPreamble v
  | .discUid => q.charInDiscUid v
  | .discChecksum => q.charInDiscChecksum micros v

/-- LineChar(p, v) on its port: dropped unless rx_active (R170); the quiet counter restarts (R173), then the state's rule. -/
def Port.lineChar (micros : Micros) (v : Byte) (q : Port) : Port :=
  if q.rxActive then Port.charInState micros v { q with rxQuiet := 0#32, rxQuietArmed := true } else q

/-- LineError(p) on its port (R170, R171). -/
def Port.lineError (q : Port) : Port :=
  if q.rxActive then { q with rxState := .preBreak, rxQuietArmed := false } else q

/-- LineMark(p) on its port (R170, R172). -/
def Port.lineMark (q : Port) : Port :=
  if q.rxActive && q.rxState == .preBreak then { q with rxState := .brk } else q

/-- IdleTimeout(p) (R179). -/
def Port.idleTimeout (q : Port) : Port := if q.rxState = .dmxData then q.closeDmxFrame else q

/-- The idle timer of one port, substep T3 (R178). -/
def Port.idleTimer (q : Port) : Port :=
  if q.rxActive && q.rxQuietArmed then
    let c : Port := { q with rxQuiet := q.rxQuiet + 1#32 }
    if c.rxQuiet.toNat = Config.rxIdleTimeoutUs then Port.idleTimeout { c with rxQuietArmed := false } else c
  else q

/-- LineError(p) (R171). -/
def State.lineError (p : Nat) (s : State) : State := s.updPort p Port.lineError

/-- LineMark(p) (R172). -/
def State.lineMark (p : Nat) (s : State) : State := s.updPort p Port.lineMark

/-- LineChar(p, v) (R173 to R188). -/
def State.lineChar (p : Nat) (v : Byte) (s : State) : State := s.updPort p (Port.lineChar s.micros v)

/-! ### Statistics (R192) -/

/-- The latch of one port at a statistics tick. -/
def Port.latchUps (q : Port) : Port := { q with ups := q.rxFrames - q.rxFramesPrev, rxFramesPrev := q.rxFrames }

/-- The statistics countdown and tick, substep T4 (R192). -/
def State.statsCountdown (s : State) : State :=
  let c : State := { s with statsTimer := s.statsTimer - 1#32 }
  if c.statsTimer = 0#32 then
    State.eachPort Port.latchUps { c with statsTimer := BitVec.ofNat 32 Config.statsWindowUs }
  else c

/-! ### Getters -/

/-- GET_DMX p (R190). -/
def execGetDmx (port : BitVec 4) (s : State) : Host.Outcome State Fault Refusal :=
  .next (s.withPort port fun p q =>
    if q.dmxHead = q.dmxTail then s.finish .none
    else
      let e := q.dmxRing.get q.dmxTail
      ((s.storeRbuf 0 (e.data.bytes 0 (e.slots.toNat + 1))).updPort p
        fun q => { q with dmxTail := nextIndex q.dmxTail }).complete .none true (e.slots.zeroExtend 32) e.updates)

/-- GET_UPS p (R191). -/
def execGetUps (port : BitVec 4) (s : State) : Host.Outcome State Fault Refusal :=
  .next (s.withPort port fun _ q => s.complete .none false q.ups 0#32)

end Sys2Proof.Machine
end

