-- ==== Sys2Proof/Machine/Timing.lean ====
section
/-! DEFINITION. The timing scheduler and the timing configuration commands (40_timing_scheduler.md). -/

namespace Sys2Proof.Machine

/-! ### The shared frame period (R144, R145) -/

/-- `inflight(p)` (R144): the data slots of the staged frame. -/
def Port.inflight (q : Port) : Nat := if q.stgValid then q.stgLen.toNat - 1 else 0

/-- The data slots a port counts for in `maxlen` (R144). -/
def Port.pendingSlots (q : Port) : Nat := max q.curLen.toNat q.inflight

/-- `maxlen` (R144): over all ports, whatever their direction. -/
def State.maxlen (s : State) : Nat := s.ports.foldr (fun q m => max q.pendingSlots m) 0

/-- `pkt` (R144): the time the longest pending frame needs. -/
def State.packetTime (s : State) : Nat :=
  s.breakTime.toNat + s.mabTime.toNat + Config.charTimeUs * s.maxlen + Config.charTimeUs

/-- `Period()` (R144), in naturals. -/
def State.periodUs (s : State) : Nat := max (max s.periodReq.toNat s.packetTime) Config.minBreakToBreakUs

/-- `period <- Period()` (R145); the value fits 32 bits (R144). -/
def State.recomputePeriod (s : State) : State := { s with period := BitVec.ofNat 32 s.periodUs }

/-! ### Configuration commands -/

/-- NOP (R150). -/
def execNop (s : State) : Host.Outcome State Fault Refusal := .next (s.finish .none)

/-- SET_BREAK us (R146). -/
def execSetBreak (us : BitVec 20) (s : State) : Host.Outcome State Fault Refusal :=
  .next ((State.recomputePeriod { s with breakTime := BitVec.ofNat 20 (max us.toNat Config.breakTimeMinUs) }).finish .none)

/-- SET_MAB us (R147). -/
def execSetMab (us : BitVec 20) (s : State) : Host.Outcome State Fault Refusal :=
  .next ((State.recomputePeriod { s with mabTime := BitVec.ofNat 20 (max us.toNat Config.mabTimeMinUs) }).finish .none)

/-- SET_PERIOD us (R148). -/
def execSetPeriod (us : BitVec 20) (s : State) : Host.Outcome State Fault Refusal :=
  .next ((State.recomputePeriod { s with periodReq := us }).finish .none)

/-- SET_SLOTS n (R149). -/
def execSetSlots (n : BitVec 10) (s : State) : Host.Outcome State Fault Refusal :=
  .next (if slotsOperandLegal n then (State.recomputePeriod { s with slots := n }).finish .none else s.finish .operand)

/-! ### The scheduler tick (R140 to R143) -/

/-- The participation latch and the staging of one port in the BREAK-entering tick (R141). -/
def Port.enterCycle (q : Port) : Port :=
  if q.txActive then
    if q.txWr ≠ q.txRd then
      { q with txset := true, txRd := q.txWr, stgValid := true, stgSlot := q.txWr, stgLen := (q.txBuf.get q.txWr).len }
    else { q with txset := true }
  else { q with txset := false }

/-- A change to the ports of `txset` only. -/
def Port.ifTxset (f : Port → Port) (q : Port) : Port := if q.txset then f q else q

/-- Scheduler tick in IDLE or INTER_FRAME (R141), and for totality in DATA (R141 (e)). -/
def State.enterBreak (s : State) : State :=
  let staged := State.recomputePeriod ({ s with schedTimer := s.breakTime.zeroExtend 32 }.eachPort Port.enterCycle)
  { staged.eachPort (Port.ifTxset (Port.breakOn s.micros)) with schedState := .brk }

/-- Scheduler tick in BREAK (R142). -/
def State.enterMab (s : State) : State :=
  { s.eachPort (Port.ifTxset (Port.breakOff s.micros)) with
    schedTimer := s.mabTime.zeroExtend 32
    schedState := .mab }

/-- `DmaStart(p)` (42_transmit_pipeline.md R224). -/
def Port.dmaStart (q : Port) : Port :=
  { q with dmaSlot := q.stgSlot, dmaLen := q.stgLen, dmaPos := 0#10, dmaBusy := true }

/-- Scheduler tick in MARK_AFTER_BREAK (R143). -/
def State.enterInterFrame (s : State) : State :=
  { s.eachPort (Port.ifTxset fun q => if q.stgValid then q.dmaStart else q) with
    schedTimer := s.period - s.breakTime.zeroExtend 32 - s.mabTime.zeroExtend 32
    schedState := .interFrame }

/-- `SchedTick()` (R140): the rule that `sched_state` selects. -/
def State.schedTick (s : State) : State :=
  match s.schedState with
  | .idle => s.enterBreak
  | .brk => s.enterMab
  | .mab => s.enterInterFrame
  | .data => s.enterBreak
  | .interFrame => s.enterBreak

/-- The countdown of the scheduler, substep T5 (R140). -/
def State.schedCountdown (s : State) : State :=
  let c : State := { s with schedTimer := s.schedTimer - 1#32 }
  if c.schedTimer = 0#32 then c.schedTick else c

end Sys2Proof.Machine
end

