-- ==== Sys2Proof/Machine/Transmit.lean ====
section
/-! DEFINITION. The transmit pipeline (42_transmit_pipeline.md): TXDATA, the DMA engine and the transmitter of a port. -/

namespace Sys2Proof.Machine

/-- TXDATA's writes to one port (R220 (a), (b), (d)): the start code and the first `n` bytes of `src` go to the slot other than
`tx_wr`, with its length, `cur_len` and the write index. -/
def Port.enqueueFrame (n : Nat) (src : Buffer) (q : Port) : Port :=
  { q with
    txBuf := q.txBuf.put (q.txWr ^^^ 1#1)
      { data := (q.txBuf.get (q.txWr ^^^ 1#1)).data.store 0 (Config.dmxSc :: src.bytes 0 n)
        len := BitVec.ofNat 10 (n + 1) }
    curLen := BitVec.ofNat 10 n
    txWr := q.txWr ^^^ 1#1 }

/-- TXDATA p, len (R220). -/
def execTxdata (port : BitVec 4) (len : BitVec 10) (s : State) : Host.Outcome State Fault Refusal :=
  .next (s.withPort port fun p _ =>
    (State.recomputePeriod (s.updPort p (Port.enqueueFrame (min len.toNat s.slots.toNat) s.pbuf))).finish .none)

/-- One DMA transfer of one port (R225): substep T6 does it for every port (R226). -/
def Port.dmaTransfer (q : Port) : Port :=
  if q.dmaBusy && !q.thrFull then
    { q with
      thr := (q.txBuf.get q.dmaSlot).data.read q.dmaPos.toNat
      thrFull := true
      dmaPos := q.dmaPos + 1#10
      dmaBusy := if q.dmaPos + 1#10 = q.dmaLen then false else q.dmaBusy }
  else q

/-- The character end of one port (R227): substep T2 does it for every port. -/
def Port.charEnd (q : Port) : Port :=
  if q.tsrBusy then
    { q with tsrRem := q.tsrRem - 1#6, tsrBusy := if q.tsrRem - 1#6 = 0#6 then false else q.tsrBusy }
  else q

/-- The character start of one port (R228): substep T8 does it for every port. -/
def Port.charStart (micros : Micros) (q : Port) : Port :=
  if !q.tsrBusy && q.thrFull then
    Port.emit (.char micros q.thr)
      { q with tsr := q.thr, thrFull := false, tsrBusy := true, tsrRem := BitVec.ofNat 6 Config.charTimeUs }
  else q

/-! ### Pins (10_state.md R57) -/

/-- What a port drives on its transmit pin, at the level of whole characters. -/
inductive LineLevel where
  /-- forced low by the break condition: `txd = 0` -/
  | space
  /-- idle high: `txd = 1` -/
  | mark
  /-- shifting a character; its bits are outside the model (42_transmit_pipeline.md R233) -/
  | shifting (v : Byte)
  deriving DecidableEq, Repr

/-- The pin `de[p]`. -/
def Port.dePin (q : Port) : Bool := q.dir == .output

/-- The pin `txd[p]`. -/
def Port.txdPin (q : Port) : LineLevel :=
  if q.brk then .space else if q.tsrBusy then .shifting q.tsr else .mark

end Sys2Proof.Machine
end

