-- ==== Sys2Proof/Machine/Dispatch.lean ====
section
/-! DEFINITION. One arm per command: `run the rule of op with (p, imm, arg)` of 30_encoding.md R115. -/

namespace Sys2Proof.Machine

def exec (i : Instr) (s : State) : Host.Outcome State Fault Refusal :=
  match i with
  -- timing configuration
  | .nop => Sys2Proof.Machine.execNop s
  | .setBreak us => Sys2Proof.Machine.execSetBreak us s
  | .setMab us => Sys2Proof.Machine.execSetMab us s
  | .setPeriod us => Sys2Proof.Machine.execSetPeriod us s
  | .setSlots n => Sys2Proof.Machine.execSetSlots n s
  -- port control, transmit, receive
  | .setDir port e d => Sys2Proof.Machine.execSetDir port e d s
  | .txdata port len => Sys2Proof.Machine.execTxdata port len s
  | .getDmx port => Sys2Proof.Machine.execGetDmx port s
  | .getUps port => Sys2Proof.Machine.execGetUps port s
  -- RDM
  | .rdmSendraw port len => Sys2Proof.Machine.execRdmSendraw port len s
  | .rdmSend port => Sys2Proof.Machine.execRdmSend port s
  | .rdmRecv port => Sys2Proof.Machine.execRdmRecv port s
  | .rdmRecvTo port => Sys2Proof.Machine.execRdmRecvTo port s
  | .rdmRespondRaw port len => Sys2Proof.Machine.execRdmRespondRaw port len s
  | .rdmRespondDisc port len => Sys2Proof.Machine.execRdmRespondDisc port len s

end Sys2Proof.Machine
end

