-- ==== Sys2Proof/Machine/Tick.lean ====
section
/-! DEFINITION. The passing of one microsecond (70_reset_and_hazards.md R372) and the reset step (R360). -/

namespace Sys2Proof.Machine

/-- `Tick()` (R372): substeps T1 to T8 in order, each on the state the one before it left. -/
def State.tick (s : State) : State :=
  let t1 : State := { s with micros := s.micros + 1#32 }
  let t2 := t1.eachPort Port.charEnd
  let t3 := t2.eachPort Port.idleTimer
  let t4 := t3.statsCountdown
  let t5 := t4.schedCountdown
  let t6 := t5.eachPort Port.dmaTransfer
  let t7 := t6.commandStep
  t7.eachPort (Port.charStart t7.micros)

/-- `Reset()` (R360): every piece of state at its value of 10_state.md R60, the wire traces empty. The number of ports is the
hardware's; the unspecified bytes become new free values (log entry 7); the events still to come are the environment's. -/
def State.performReset (s : State) : State :=
  { State.afterReset s.ports.length (s.resets + 1) with inputs := s.inputs }

end Sys2Proof.Machine
end

