-- ==== Sys2Proof/Machine/Bus.lean ====
section
/-! DEFINITION. The register map (10_state.md R43), the acceptance of a command (30_encoding.md R115) and the two host bus
primitives (20_memory.md R82, R83). -/

namespace Sys2Proof.Machine

/-- The registers of the host map (10_state.md R43). -/
inductive Reg where
  | cmd
  | arg
  | status
  | result0
  | result1
  | micros
  | sched
  | period
  | breakTime
  | mabTime
  | periodReq
  | slots
  | schedTimer
  | hwcfg
  | pstat (p : Nat)
  | rings (p : Nat)
  | tn (p : Nat)
  | lastSendTs (p : Nat)
  | rxDoneTs (p : Nat)
  | ups (p : Nat)
  | rxFrames (p : Nat)
  | lens (p : Nat)
  deriving DecidableEq, Repr

/-- The global register at an offset below 0x100 (10_state.md R43). -/
def globalReg (addr : Nat) : Option Reg :=
  match addr with
  | 0x000 => some .cmd
  | 0x004 => some .arg
  | 0x008 => some .status
  | 0x00C => some .result0
  | 0x010 => some .result1
  | 0x014 => some .micros
  | 0x018 => some .sched
  | 0x01C => some .period
  | 0x020 => some .breakTime
  | 0x024 => some .mabTime
  | 0x028 => some .periodReq
  | 0x02C => some .slots
  | 0x030 => some .schedTimer
  | 0x034 => some .hwcfg
  | _ => none

/-- The register of port `p` at an offset inside its block (10_state.md R43). -/
def portReg (p off : Nat) : Option Reg :=
  match off with
  | 0x00 => some (.pstat p)
  | 0x04 => some (.rings p)
  | 0x08 => some (.tn p)
  | 0x0C => some (.lastSendTs p)
  | 0x10 => some (.rxDoneTs p)
  | 0x14 => some (.ups p)
  | 0x18 => some (.rxFrames p)
  | 0x1C => some (.lens p)
  | _ => none

/-- The register an offset names (10_state.md R43); the blocks of absent ports are reserved. -/
def regAt (nports addr : Nat) : Option Reg :=
  if addr < 0x100 then globalReg addr
  else if addr < 0x200 ∧ (addr - 0x100) / 0x40 < nports then portReg ((addr - 0x100) / 0x40) ((addr - 0x100) % 0x40)
  else none

/-- The value of a register of port `p`; the map names none of a port that does not exist. -/
def State.readPort (p : Nat) (f : Port → Word) (s : State) : Word :=
  match s.ports[p]? with
  | some q => f q
  | none => 0#32

/-- `Reg(NAME)`: the word a register reads as (10_state.md R29 to R42). -/
def State.readReg (r : Reg) (s : State) : Word :=
  match r with
  | .cmd => s.cmdWord
  | .arg => s.arg
  | .status => s.statusWord
  | .result0 => s.result0
  | .result1 => s.result1
  | .micros => s.micros
  | .sched => s.schedWord
  | .period => s.period
  | .breakTime => s.breakTime.zeroExtend 32
  | .mabTime => s.mabTime.zeroExtend 32
  | .periodReq => s.periodReq.zeroExtend 32
  | .slots => s.slots.zeroExtend 32
  | .schedTimer => s.schedTimer
  | .hwcfg => s.hwcfgWord
  | .pstat p => s.readPort p Port.pstatWord
  | .rings p => s.readPort p Port.ringsWord
  | .tn p => s.readPort p fun q => q.tn.zeroExtend 32
  | .lastSendTs p => s.readPort p Port.lastSendTs
  | .rxDoneTs p => s.readPort p Port.rxDoneTs
  | .ups p => s.readPort p Port.ups
  | .rxFrames p => s.readPort p Port.rxFrames
  | .lens p => s.readPort p Port.lensWord

/-- A word of RBUF: bytes above 512 read 0 (20_memory.md R88). -/
def State.rbufWord (i : Nat) (s : State) : Word :=
  if i + 3 < Config.rbufDataBytes then s.rbuf.word i else (s.rbuf.read i).zeroExtend 32

/-- An access is aligned (20_memory.md R84). -/
def aligned (addr : BitVec 13) : Bool := addr.toNat % 4 == 0

/-- What an aligned read answers on `rdata` (20_memory.md R82, R87). -/
def State.busWord (addr : Nat) (s : State) : Word :=
  match regAt s.ports.length addr with
  | some r => s.readReg r
  | none =>
    if 0x1000 ≤ addr ∧ addr ≤ 0x11FC then s.pbuf.word (addr - 0x1000)
    else if 0x1400 ≤ addr ∧ addr ≤ 0x1600 then s.rbufWord (addr - 0x1400)
    else 0#32

/-- `HostRead(addr)` (20_memory.md R82): only the answer pins change (log entry 6). -/
def State.hostRead (addr : BitVec 13) (s : State) : State :=
  if aligned addr then { s with busErr := false, busRdata := s.busWord addr.toNat }
  else { s with busErr := true, busRdata := 0#32 }

/-- The error code of a word that is no command (30_encoding.md R115, R116): the port range is tested before a must-be-zero bit. -/
def rejectCode (nports : Nat) : Reject → ErrCode
  | .reservedOpcode => .opcode
  | .globalPort => .operand
  | .globalImm => .operand
  | .portedImm port => if port.toNat < nports then .operand else .port

/-- `accept(w)` (30_encoding.md R115): the word is loaded, and the command it selects runs, or an error code completes it. -/
def accept (w : Word) (s : State) : Host.Outcome State Fault Refusal :=
  match decode w with
  | .ok i => exec i (s.load w)
  | .error r => .next ((s.load w).finish (rejectCode s.ports.length r))

/-- A write that BUSY makes the block ignore (20_memory.md R86). -/
def State.writeIgnored (s : State) : State := { s with ovr := true }

/-- `HostWrite(addr, v)` (20_memory.md R83). -/
def hostWrite (addr : BitVec 13) (v : Word) (s : State) : Host.Outcome State Fault Refusal :=
  let answered : State := { s with busErr := false }
  if !aligned addr then .next { s with busErr := true, busRdata := 0#32 }
  else if addr.toNat = 0x000 then
    if s.busy then .next answered.writeIgnored else accept v answered
  else if addr.toNat = 0x004 then
    if s.busy then .next answered.writeIgnored else .next { answered with arg := v }
  else if 0x1000 ≤ addr.toNat ∧ addr.toNat ≤ 0x11FC then
    if s.busy then .next answered.writeIgnored else .next (answered.storePbuf (addr.toNat - 0x1000) (wordBytes v))
  else .next answered

/-- The step an event is (70_reset_and_hazards.md R371). -/
def runEvent (e : Event) (s : State) : Host.Outcome State Fault Refusal :=
  match e with
  | .reset => .next s.performReset
  | .tick => .next s.tick
  | .hostRead addr => .next (s.hostRead addr)
  | .hostWrite addr v => hostWrite addr v s
  | .lineError p => .next (s.lineError p)
  | .lineMark p => .next (s.lineMark p)
  | .lineChar p v => .next (s.lineChar p v)

end Sys2Proof.Machine
end

