-- ==== Sys2Proof/Machine/Step.lean ====
section
/-! DEFINITION. One step of the block: the next event of its environment (70_reset_and_hazards.md R371, log entry 2). -/

namespace Sys2Proof.Machine

/-- One step: the event at the head of `inputs` is consumed and run; with none pending a microsecond passes. -/
def step (s : State) : Host.Outcome State Fault Refusal :=
  match s.inputs with
  | [] => runEvent .tick s
  | e :: rest => runEvent e { s with inputs := rest }

/-- `s` with a write of the command word to CMD as the next event and the mailbox idle, which is where the block takes its next
command from (30_encoding.md R115, log entry 3). -/
def State.withFetchWord (s : State) (nbits w : Nat) : State :=
  { s with busy := false, cmdPhase := .none, inputs := .hostWrite 0#13 (tableWord nbits w) :: s.inputs }

end Sys2Proof.Machine
end

