-- ==== Sys2Proof/Safety.lean ====
section
/-! DEFINITION. The terms claims about the block are stated in: the shared period and the end of a command written out from the
rules, the values after reset, and the invariants of a run (10_state.md R61, 45_common_semantics.md R406,
70_reset_and_hazards.md R380, the canonical form of memory). -/

namespace Sys2Proof.Machine

/-! ### Results written out from the rules -/

/-- The state after `complete(e, v, r0, r1)` (30_encoding.md R118). -/
def ended (e : ErrCode) (v : Bool) (r0 r1 : Word) (s : State) : State :=
  { s with err := e, valid := v, result0 := r0, result1 := r1, cmdPhase := .none, busy := false }

/-- The state in which the rule of a command begins to run, when the host wrote `w` to CMD and `rest` is still to come: the bus
answered without error, and the mailbox as the head of `accept(w)` leaves it (30_encoding.md R115). -/
def accepted (w : Word) (rest : List Event) (s : State) : State :=
  { s with
    inputs := rest
    busErr := false
    cmdWord := w
    opc := w.extractLsb' 24 8
    err := .none
    valid := false
    ovr := false
    result0 := 0#32
    result1 := 0#32 }

/-- `s` with port `p` replaced. -/
def State.withPortSet (p : Nat) (q : Port) (s : State) : State := { s with ports := s.ports.set p q }

/-- `m` is `maxlen` of 40_timing_scheduler.md R144: the largest, over all ports, of the last written length and the data slots
of the staged frame; 0 if there is none above it. -/
def IsMaxlen (s : State) (m : Nat) : Prop :=
  (∀ q ∈ s.ports, q.curLen.toNat ≤ m ∧ (q.stgValid = true → q.stgLen.toNat - 1 ≤ m)) ∧
  (m = 0 ∨ ∃ q ∈ s.ports, q.curLen.toNat = m ∨ (q.stgValid = true ∧ q.stgLen.toNat - 1 = m))

/-- The period of 40_timing_scheduler.md R144 from its four inputs, in microseconds. -/
def periodOf (breakUs mabUs reqUs maxlen : Nat) : Nat := max (max reqUs (breakUs + mabUs + 44 * maxlen + 44)) 1204

/-- The period of 40_timing_scheduler.md R144 for the settings of `s` and a given `maxlen`, as the register holds it. -/
def State.periodFor (s : State) (m : Nat) : Word :=
  BitVec.ofNat 32 (periodOf s.breakTime.toNat s.mabTime.toNat s.periodReq.toNat m)

/-- Nothing is in flight on a port (70_reset_and_hazards.md R380). -/
def Port.Still (q : Port) : Prop := q.dmaBusy = false ∧ q.thrFull = false ∧ q.tsrBusy = false ∧ q.brk = false

/-- What the command engine and the host own is the same in two states (60_exceptions.md R330, R334): the command in progress
with its operands, and on every port the indices a reader advances, the write index of the transmit store, and the mode. -/
structure HostOwnedKept (s t : State) : Prop where
  command : t.cmdWord = s.cmdWord ∧ t.cmdPhase = s.cmdPhase ∧ t.cmdT0 = s.cmdT0 ∧ t.cmdPos = s.cmdPos ∧ t.cmdLen = s.cmdLen
  operands : t.arg = s.arg ∧ t.pbuf = s.pbuf
  nports : t.ports.length = s.ports.length
  ports : ∀ (p : Nat) (q r : Port), s.ports[p]? = some q → t.ports[p]? = some r →
    r.txWr = q.txWr ∧ r.dmxTail = q.dmxTail ∧ r.rdmTail = q.rdmTail ∧ r.dir = q.dir ∧ r.enableData = q.enableData

/-- Entry `i` of a ring has been completed and not yet fetched: it lies at or after the tail and before the head, cyclically. -/
def Published {w : Nat} (tail head i : BitVec w) : Prop := (i - tail).toNat < (head - tail).toNat

/-! ### Reset -/

/-- A port at the values of 10_state.md R60. That its buffers list no written byte is the model's rendering of "unspecified: the
buffer memories are not cleared by reset" (log entries 4 and 7); the registers that the table calls unspecified are not
mentioned. -/
structure Port.AtReset (q : Port) : Prop where
  dir : q.dir = .idle
  enableData : q.enableData = false
  txset : q.txset = false
  rxState : q.rxState = .idle
  rxQuiet : q.rxQuiet = 0#32
  rxQuietArmed : q.rxQuietArmed = false
  rings : q.dmxHead = 0#2 ∧ q.dmxTail = 0#2 ∧ q.rdmHead = 0#3 ∧ q.rdmTail = 0#3
  counters : q.rxFrames = 0#32 ∧ q.rxFramesPrev = 0#32 ∧ q.ups = 0#32
  stamps : q.rxDoneTs = 0#32 ∧ q.lastSendTs = 0#32 ∧ q.tn = 0#8
  store : q.txWr = 0#1 ∧ q.txRd = 0#1 ∧ q.curLen = 0#10 ∧ ∀ k, (q.txBuf.get k).len = 0#10
  staged : q.stgValid = false ∧ q.stgSlot = 0#1 ∧ q.stgLen = 0#10
  channel : q.dmaBusy = false ∧ q.dmaSlot = 0#1 ∧ q.dmaPos = 0#10 ∧ q.dmaLen = 0#10
  transmitter : q.thrFull = false ∧ q.tsrBusy = false ∧ q.tsrRem = 0#6 ∧ q.brk = false
  unwritten : (∀ k, (q.txBuf.get k).data.cells = []) ∧ (∀ i, (q.dmxRing.get i).data.cells = []) ∧
    ∀ i, (q.rdmRing.get i).data.cells = []
  wire : q.wire = []

/-- A block at the values of 10_state.md R60, pins included (70_reset_and_hazards.md R360); its buffers list no written byte, as
those of its ports (log entries 4 and 7). -/
structure State.AtReset (s : State) : Prop where
  micros : s.micros = 0#32
  scheduler : s.schedState = .idle ∧ s.schedTimer = 1204#32 ∧ s.period = 1204#32
  settings : s.breakTime = 176#20 ∧ s.mabTime = 12#20 ∧ s.periodReq = 0#20 ∧ s.slots = 512#10
  statsTimer : s.statsTimer = 1000000#32
  mailbox : s.cmdWord = 0#32 ∧ s.arg = 0#32 ∧ s.result0 = 0#32 ∧ s.result1 = 0#32
  status : s.busy = false ∧ s.valid = false ∧ s.ovr = false ∧ s.err = .none ∧ s.opc = 0#8
  engine : s.cmdPhase = .none ∧ s.cmdT0 = 0#32 ∧ s.cmdPos = 0#10 ∧ s.cmdLen = 0#10
  buffers : s.pbuf.cells = [] ∧ s.rbuf.cells = []
  pins : s.busErr = false ∧ s.busRdata = 0#32 ∧ ∀ q ∈ s.ports, q.dePin = false ∧ q.txdPin = .mark
  ports : ∀ q ∈ s.ports, q.AtReset

/-! ### Invariants -/

/-- The canonical form of every buffer of a port. -/
structure Port.MemoryWf (q : Port) : Prop where
  tx : ∀ k, (q.txBuf.get k).data.cells.wf
  dmx : ∀ i, (q.dmxRing.get i).data.cells.wf
  rdm : ∀ i, (q.rdmRing.get i).data.cells.wf

/-- The canonical form of every buffer of the block. -/
structure State.MemoryWf (s : State) : Prop where
  pbuf : s.pbuf.cells.wf
  rbuf : s.rbuf.cells.wf
  ports : ∀ q ∈ s.ports, q.MemoryWf

/-- The clauses of 10_state.md R61 about one port. The first two hold of every value of their types; `slotLens` and `pending` are
what makes the others follow; `idleDisabled` follows from 44_port_controller.md R290 and R296: only a switched port is enabled. -/
structure Port.Legal (q : Port) : Prop where
  dir : q.dir.bits ≠ 3#2
  rxState : q.rxState.bits.toNat ≤ 9
  staged : q.stgValid = true → 1 ≤ q.stgLen.toNat ∧ q.stgLen.toNat ≤ 513
  channel : q.dmaBusy = true → q.dmaPos.toNat < q.dmaLen.toNat ∧ q.dmaLen.toNat ≤ 513
  curLen : q.curLen.toNat ≤ 512
  idleDisabled : q.dir = .idle → q.enableData = false
  slotLens : ∀ k, (q.txBuf.get k).len.toNat ≤ 513
  pending : q.txWr ≠ q.txRd → 1 ≤ (q.txBuf.get q.txWr).len.toNat

/-- The clauses of 10_state.md R61, with the legal ranges of R35 and the value of `period` (R45) that they follow from. -/
structure State.Legal (s : State) : Prop where
  schedState : s.schedState = .idle ∨ s.schedState = .brk ∨ s.schedState = .mab ∨ s.schedState = .interFrame
  schedTimer : 1 ≤ s.schedTimer.toNat
  slots : 1 ≤ s.slots.toNat ∧ s.slots.toNat ≤ 512
  breakTime : 92 ≤ s.breakTime.toNat
  mabTime : 12 ≤ s.mabTime.toNat
  period : ∀ m, IsMaxlen s m → s.period = s.periodFor m
  cycle : ∀ m, IsMaxlen s m → s.breakTime.toNat + s.mabTime.toNat + 44 * (m + 1) ≤ s.period.toNat
  busy : s.busy = true ↔ s.cmdPhase ≠ .none
  ports : ∀ q ∈ s.ports, q.Legal

/-- What the command in progress on a port leaves true of it, by phase (70_reset_and_hazards.md R380: "During a command on port p
the invariant may be false for p only"). -/
def Port.QuietInPhase (ph : CmdPhase) (q : Port) : Prop :=
  match ph with
  | .none => q.txActive = false → q.Still
  | .wait => q.txActive = false ∧ q.Still
  | .brk => q.txActive = false ∧ q.dmaBusy = false ∧ q.thrFull = false ∧ q.tsrBusy = false
  | .mab => q.txActive = false ∧ q.Still
  | .data => q.txActive = false ∧ q.dmaBusy = false ∧ q.brk = false
  | .drain => q.txActive = false ∧ q.dmaBusy = false ∧ q.brk = false
  | .post => q.txActive = false ∧ q.Still
  | .dirA => q.txActive = false → q.Still
  | .dirB => q.txActive = false ∧ q.brk = false
  | .recvWait => q.txActive = false → q.Still

/-- 70_reset_and_hazards.md R380 for port `p`, with what it follows from: in the BREAK and MARK_AFTER_BREAK intervals the ports
of `txset` are tx_active, and a break condition is the scheduler's or the command's. -/
structure State.QuietPort (s : State) (p : Nat) (q : Port) : Prop where
  latch : q.txset = true → s.schedState = .brk ∨ s.schedState = .mab → q.txActive = true
  brk : q.brk = true → (s.schedState = .brk ∧ q.txset = true) ∨ (s.cmdPhase = .brk ∧ s.cmdPort = p)
  idle : s.cmdPhase = .none ∨ s.cmdPort ≠ p → q.txActive = false → q.Still
  command : s.cmdPort = p → q.QuietInPhase s.cmdPhase

/-- Every port that is not transmitting is quiet, but for what the command in progress does on its own port. -/
def State.Quiet (s : State) : Prop := ∀ p q, s.ports[p]? = some q → s.QuietPort p q

/-- The bounds of 45_common_semantics.md R406 on the receive side of a port, by `rx_state`. -/
structure Port.RxBounds (q : Port) : Prop where
  dmxData : q.rxState = .dmxData → (q.dmxRing.get q.dmxHead).slots.toNat ≤ 511
  dmxPublished : ∀ i, Published q.dmxTail q.dmxHead i → (q.dmxRing.get i).slots.toNat ≤ 512
  rdmData : q.rxState = .rdmData →
    1 ≤ (q.rdmRing.get q.rdmHead).cursor.toNat ∧ (q.rdmRing.get q.rdmHead).cursor.toNat ≤ 254
  checksumHigh : q.rxState = .checksumHigh →
    (q.rdmRing.get q.rdmHead).cursor.toNat = ((q.rdmRing.get q.rdmHead).data.read 2).toNat ∧
    3 ≤ (q.rdmRing.get q.rdmHead).cursor.toNat
  checksumLow : q.rxState = .checksumLow →
    (q.rdmRing.get q.rdmHead).cursor.toNat = ((q.rdmRing.get q.rdmHead).data.read 2).toNat + 1 ∧
    4 ≤ (q.rdmRing.get q.rdmHead).cursor.toNat
  discPreamble : q.rxState = .discPreamble →
    1 ≤ (q.rdmRing.get q.rdmHead).cursor.toNat ∧ (q.rdmRing.get q.rdmHead).cursor.toNat ≤ 8
  discUid : q.rxState = .discUid →
    (q.rdmRing.get q.rdmHead).cursor.toNat ≤ 9 + (q.rdmRing.get q.rdmHead).discCnt.toNat ∧
    (q.rdmRing.get q.rdmHead).discCnt.toNat ≤ 11
  discChecksum : q.rxState = .discChecksum →
    (q.rdmRing.get q.rdmHead).cursor.toNat ≤ 21 + (q.rdmRing.get q.rdmHead).discCnt.toNat ∧
    (q.rdmRing.get q.rdmHead).discCnt.toNat ≤ 3
  rdmPublished : ∀ i, Published q.rdmTail q.rdmHead i → (q.rdmRing.get i).cursor.toNat < Config.rdmBufBytes

/-- A buffer that stands in the place `id` names has that name, and every byte written to it lies inside its size. -/
def Buffer.Inside (id : BufId) (b : Buffer) : Prop := b.id = id ∧ ∀ c ∈ b.cells, c.1 < id.size

/-- Every buffer of port `p` stands in its place and inside its size. -/
structure Port.Inside (p : Nat) (q : Port) : Prop where
  tx : ∀ k, (q.txBuf.get k).data.Inside (.txBuf p k)
  dmx : ∀ i, (q.dmxRing.get i).data.Inside (.dmxRing p i)
  rdm : ∀ i, (q.rdmRing.get i).data.Inside (.rdmRing p i)

/-- The index bounds of 45_common_semantics.md R406 that are not already clauses of `State.Legal`: the receive side, the cursor
of the command in progress, and what they are for: no byte is ever written outside the size of its buffer (R405). -/
structure State.IndexBounds (s : State) : Prop where
  ports : ∀ q ∈ s.ports, q.RxBounds
  slots : s.slots.toNat ≤ Config.dmxMaxSlots
  pbuf : s.pbuf.Inside .pbuf
  rbuf : s.rbuf.Inside .rbuf
  inside : ∀ (p : Nat) (q : Port), s.ports[p]? = some q → q.Inside p
  cmdLen : s.cmdPhase = .wait ∨ s.cmdPhase = .brk ∨ s.cmdPhase = .mab ∨ s.cmdPhase = .data →
    1 ≤ s.cmdLen.toNat ∧ s.cmdLen.toNat ≤ 512
  cmdPos : s.cmdPhase = .data → 1 ≤ s.cmdPos.toNat ∧ s.cmdPos.toNat < s.cmdLen.toNat

end Sys2Proof.Machine
end

