-- ==== Sys2Proof/Certificates/Slice0/Obligations.lean ====
section
/-! DEFINITION. The statements for the provers. Each docstring names the rule of spec/ it formalises. -/

open Sys2Proof Sys2Proof.Machine

/-! ### Encoding (30_encoding.md) -/

/-- R110, R112, R113: no operand bit of any command is lost between the encoder and the decoder. -/
def Obligations.DecodeOfEncodeIsIdentity : Prop := ∀ i : Instr, decode (encode i) = .ok i

/-- R113, R110, R112: a word selects a command exactly when its masked bits are the match of that command's row, and it is the
word of the command it decodes to: no two words mean the same command. -/
def Obligations.DecodeAcceptsExactlyTheTableRows : Prop :=
  (∀ (w : Word) (i : Instr), decode w = .ok i → w &&& i.row.mask = i.row.pattern ∧ encode i = w) ∧
  (∀ (w : Word) (j : Instr), w &&& j.row.mask = j.row.pattern → ∃ i, decode w = .ok i ∧ i.row = j.row)

/-- Words the spec writes out, with the commands they stand for: R146, R149, R150, R190, R191, R220, R255, R256, R257, R258, R259,
R260, R290. -/
def Obligations.WordsFromTheSpecDecode : Prop :=
  decode 0x00000000#32 = .ok .nop ∧
  decode 0x010000B0#32 = .ok (.setBreak 176#20) ∧
  decode 0x0200000C#32 = .ok (.setMab 12#20) ∧
  decode 0x030061A8#32 = .ok (.setPeriod 25000#20) ∧
  decode 0x04000018#32 = .ok (.setSlots 24#10) ∧
  decode 0x10100005#32 = .ok (.setDir 1#4 1#1 1#2) ∧
  decode 0x11000200#32 = .ok (.txdata 0#4 512#10) ∧
  decode 0x12000000#32 = .ok (.getDmx 0#4) ∧
  decode 0x13200000#32 = .ok (.getUps 2#4) ∧
  decode 0x2010001A#32 = .ok (.rdmSendraw 1#4 26#10) ∧
  decode 0x21100000#32 = .ok (.rdmSend 1#4) ∧
  decode 0x22100000#32 = .ok (.rdmRecv 1#4) ∧
  decode 0x23100000#32 = .ok (.rdmRecvTo 1#4) ∧
  decode 0x2410001A#32 = .ok (.rdmRespondRaw 1#4 26#10) ∧
  decode 0x25100018#32 = .ok (.rdmRespondDisc 1#4 24#10)

/-! ### Acceptance and errors (30_encoding.md) -/

/-- R115, R83: writing a command's word to CMD with BUSY = 0 runs that command, after the bus has answered and the mailbox has
been loaded as the head of `accept(w)` says. -/
def Obligations.StepRunsTheDecodedCommand : Prop :=
  ∀ (s : State) (w : Word) (i : Instr) (rest : List Event),
    s.inputs = .hostWrite 0#13 w :: rest → s.busy = false → decode w = .ok i → step s = exec i (accepted w rest s)

/-- R116: a reserved opcode completes with E_OPCODE, a nonzero must-be-zero bit with E_OPERAND, and nothing else happens; by the
order of R115 an absent port (formats P and PA) is reported before a must-be-zero bit. -/
def Obligations.ReservedEncodingsCompleteWithAnError : Prop :=
  ∀ (s : State) (w : Word) (rest : List Event), s.inputs = .hostWrite 0#13 w :: rest → s.busy = false →
    (∀ op : Nat, op = (w.extractLsb' 24 8).toNat →
      (0x05 ≤ op ∧ op ≤ 0x0F) ∨ (0x14 ≤ op ∧ op ≤ 0x1F) ∨ (0x26 ≤ op ∧ op ≤ 0xFF) →
      step s = .next (ended .opcode false 0#32 0#32 (accepted w rest s))) ∧
    (∀ i : Instr, w.extractLsb' 24 8 = i.opcode → w &&& i.row.mask ≠ i.row.pattern →
      step s = .next (ended
        (if i.format ≠ .g ∧ s.ports.length ≤ (w.extractLsb' 20 4).toNat then .port else .operand)
        false 0#32 0#32 (accepted w rest s)))

/-- R115, R117: every command of format P or PA whose port field is not below NPORTS completes with E_PORT, whatever its other
operands, and changes nothing else. -/
def Obligations.AbsentPortCompletesWithPortError : Prop :=
  ∀ (i : Instr) (s : State), i.format ≠ .g → s.ports.length ≤ i.portBits.toNat →
    exec i s = .next (ended .port false 0#32 0#32 s)

/-- R115, R325: a command that fails a check changes nothing but the mailbox: if it ends with an error code, the state it leaves
is the one in which its rule began, with that code. -/
def Obligations.RefusedCommandChangesOnlyTheMailbox : Prop :=
  ∀ (i : Instr) (s t : State), s.err = .none → exec i s = .next t → t.err ≠ .none →
    t = ended t.err false 0#32 0#32 s

/-- R371: "every step is total in every state": no step stops the machine. -/
def Obligations.EveryStepAnswersANextState : Prop := ∀ s : State, ∃ t, step s = .next t

/-! ### Timing configuration (40_timing_scheduler.md) -/

/-- R150: NOP only completes. -/
def Obligations.NopOnlyCompletes : Prop := ∀ s : State, exec .nop s = .next (ended .none false 0#32 0#32 s)

/-- R146, R147, R148 with the period of R144: SET_BREAK and SET_MAB store the time raised to its minimum, SET_PERIOD stores the
request as it is; each recomputes the period and changes nothing else. -/
def Obligations.TimingSettersStoreAndRecomputeThePeriod : Prop :=
  ∀ (us : BitVec 20) (s : State), ∃ m, IsMaxlen s m ∧
    exec (.setBreak us) s = .next (ended .none false 0#32 0#32
      { s with
        breakTime := BitVec.ofNat 20 (max us.toNat 92)
        period := BitVec.ofNat 32 (periodOf (max us.toNat 92) s.mabTime.toNat s.periodReq.toNat m) }) ∧
    exec (.setMab us) s = .next (ended .none false 0#32 0#32
      { s with
        mabTime := BitVec.ofNat 20 (max us.toNat 12)
        period := BitVec.ofNat 32 (periodOf s.breakTime.toNat (max us.toNat 12) s.periodReq.toNat m) }) ∧
    exec (.setPeriod us) s = .next (ended .none false 0#32 0#32
      { s with
        periodReq := us
        period := BitVec.ofNat 32 (periodOf s.breakTime.toNat s.mabTime.toNat us.toNat m) })

/-- R149 with the period of R144: a count of 1 to 512 is stored, any other completes with E_OPERAND and stores nothing. -/
def Obligations.SetSlotsStoresLegalCountOrRefuses : Prop :=
  ∀ (n : BitVec 10) (s : State),
    ((1 ≤ n.toNat ∧ n.toNat ≤ 512) → ∃ m, IsMaxlen s m ∧
      exec (.setSlots n) s = .next (ended .none false 0#32 0#32 { s with slots := n, period := s.periodFor m })) ∧
    ((n.toNat = 0 ∨ 512 < n.toNat) → exec (.setSlots n) s = .next (ended .operand false 0#32 0#32 s))

/-! ### The scheduler (40_timing_scheduler.md) -/

/-- R141 with the period of R144: the scheduler tick in IDLE or INTER_FRAME (and, for totality, in DATA), on every port and on the
shared state; nothing else changes. -/
def Obligations.SchedulerEntersBreak : Prop :=
  ∀ s : State, s.schedState = .idle ∨ s.schedState = .interFrame ∨ s.schedState = .data → ∃ (m : Nat) (ps : List Port),
    s.schedTick = { s with schedTimer := s.breakTime.zeroExtend 32, schedState := .brk, ports := ps, period := s.periodFor m } ∧
    IsMaxlen { s with ports := ps } m ∧ ps.length = s.ports.length ∧
    ∀ (p : Nat) (q : Port), s.ports[p]? = some q → ps[p]? = some
      (if q.dir = .output ∧ q.enableData = true then
        { q with
          txset := true
          txRd := q.txWr
          stgValid := if q.txWr ≠ q.txRd then true else q.stgValid
          stgSlot := if q.txWr ≠ q.txRd then q.txWr else q.stgSlot
          stgLen := if q.txWr ≠ q.txRd then (q.txBuf.get q.txWr).len else q.stgLen
          brk := true
          wire := q.wire ++ [.brkOn s.micros] }
      else { q with txset := false })

/-- R142: the scheduler tick in BREAK. -/
def Obligations.SchedulerLeavesBreak : Prop :=
  ∀ s : State, s.schedState = .brk → ∃ ps : List Port,
    s.schedTick = { s with schedTimer := s.mabTime.zeroExtend 32, schedState := .mab, ports := ps } ∧
    ps.length = s.ports.length ∧
    ∀ (p : Nat) (q : Port), s.ports[p]? = some q → ps[p]? = some
      (if q.txset = true then { q with brk := false, wire := q.wire ++ [.brkOff s.micros] } else q)

/-- R143, R224: the scheduler tick in MARK_AFTER_BREAK starts the DMA of every port of `txset` with a staged frame. -/
def Obligations.SchedulerStartsData : Prop :=
  ∀ s : State, s.schedState = .mab → s.breakTime.toNat + s.mabTime.toNat ≤ s.period.toNat → ∃ ps : List Port,
    s.schedTick = { s with
      schedTimer := BitVec.ofNat 32 (s.period.toNat - s.breakTime.toNat - s.mabTime.toNat)
      schedState := .interFrame
      ports := ps } ∧
    ps.length = s.ports.length ∧
    ∀ (p : Nat) (q : Port), s.ports[p]? = some q → ps[p]? = some
      (if q.txset = true ∧ q.stgValid = true then
        { q with dmaSlot := q.stgSlot, dmaLen := q.stgLen, dmaPos := 0#10, dmaBusy := true }
      else q)

/-- R140, R402: in a step in which a microsecond passes the countdown goes down by one; the scheduler moves only when it expires,
and then along the cycle IDLE, BREAK, MARK_AFTER_BREAK, INTER_FRAME, BREAK. -/
def Obligations.SchedulerMovesOnlyWhenTheCountdownExpires : Prop :=
  ∀ (s t : State) (rest : List Event), s.inputs = .tick :: rest → step s = .next t →
    (2 ≤ s.schedTimer.toNat → t.schedTimer = s.schedTimer - 1#32 ∧ t.schedState = s.schedState) ∧
    (s.schedTimer = 1#32 →
      (s.schedState = .idle ∨ s.schedState = .interFrame → t.schedState = .brk ∧ t.schedTimer.toNat = s.breakTime.toNat) ∧
      (s.schedState = .brk → t.schedState = .mab ∧ t.schedTimer.toNat = s.mabTime.toNat) ∧
      (s.schedState = .mab → t.schedState = .interFrame))

/-- R372: in a step in which a microsecond passes, the substeps T1 to T8 run in order, each on the state left by the one before
it; what each of them does is stated of it by name. -/
def Obligations.TickRunsItsSubstepsInOrder : Prop :=
  ∀ (s : State) (rest : List Event), s.inputs = .tick :: rest → ∃ t1 t2 t3 t4 t5 t6 t7 t8 : State,
    step s = .next t8 ∧
    t1 = { s with inputs := rest, micros := s.micros + 1#32 } ∧
    t2 = { t1 with ports := t1.ports.map Port.charEnd } ∧
    t3 = { t2 with ports := t2.ports.map Port.idleTimer } ∧
    t4 = t3.statsCountdown ∧
    t5 = (if t4.schedTimer = 1#32 then State.schedTick { t4 with schedTimer := 0#32 }
      else { t4 with schedTimer := t4.schedTimer - 1#32 }) ∧
    t6 = { t5 with ports := t5.ports.map Port.dmaTransfer } ∧
    t7 = (if t6.cmdPhase = .none then t6 else t6.commandStep) ∧
    t8 = { t7 with ports := t7.ports.map (Port.charStart t7.micros) }

/-- R33, R372 (T1): a microsecond passing adds one to `micros`, mod 2^32, whatever else the tick does; and with no event pending
the step is such a tick (the model's choice, log entry 2). -/
def Obligations.EveryTickAdvancesMicros : Prop :=
  ∀ s t : State, s.inputs = [] ∨ (∃ rest, s.inputs = .tick :: rest) → step s = .next t →
    t.micros = s.micros + 1#32 ∧ t.inputs = s.inputs.tail

/-! ### Transmit pipeline (42_transmit_pipeline.md) -/

/-- R220 with the period of R144: TXDATA writes the slot other than `tx_wr`, its length, `cur_len`, the period and the write
index, and nothing else: every byte of memory outside that slot's first `n + 1` bytes reads as before. -/
def Obligations.TxdataWritesTheFreeSlotAndPublishesIt : Prop :=
  ∀ (port : BitVec 4) (len : BitVec 10) (s : State) (q : Port), s.ports[port.toNat]? = some q → s.slots.toNat ≤ 512 →
    ∃ (n m : Nat) (bank : Bank TxSlot Config.txSlotBits) (t : State),
      n = min len.toNat s.slots.toNat ∧
      exec (.txdata port len) s = .next t ∧
      t = ended .none false 0#32 0#32
        { s.withPortSet port.toNat
            { q with txBuf := bank, curLen := BitVec.ofNat 10 n, txWr := q.txWr ^^^ 1#1 } with
          period := s.periodFor m } ∧
      IsMaxlen t m ∧
      (bank.get (q.txWr ^^^ 1#1)).len.toNat = n + 1 ∧
      bank.get q.txWr = q.txBuf.get q.txWr ∧
      (bank.get (q.txWr ^^^ 1#1)).data.read 0 = 0x00#8 ∧
      (∀ i < n, (bank.get (q.txWr ^^^ 1#1)).data.read (1 + i) = s.pbuf.read i) ∧
      ∀ id k, ¬(id = .txBuf port.toNat (q.txWr ^^^ 1#1) ∧ k ≤ n) → t.byteAt id k = s.byteAt id k

/-- R225: one DMA transfer of a port, when its request is up; otherwise the port is left alone. -/
def Obligations.DmaTransferMovesOneByte : Prop :=
  ∀ q : Port,
    (q.dmaBusy = true → q.thrFull = false → q.dmaPos.toNat < q.dmaLen.toNat → q.dmaTransfer =
      { q with
        thr := (q.txBuf.get q.dmaSlot).data.read q.dmaPos.toNat
        thrFull := true
        dmaPos := BitVec.ofNat 10 (q.dmaPos.toNat + 1)
        dmaBusy := decide (q.dmaPos.toNat + 1 < q.dmaLen.toNat) }) ∧
    (q.dmaBusy = false ∨ q.thrFull = true → q.dmaTransfer = q)

/-- R227, R228: the character end and the character start of a port; a character that starts takes the byte of the holding
register, is recorded on the wire trace with its time, and occupies the transmitter for exactly 44 ticks. -/
def Obligations.CharacterOccupiesFortyFourTicks : Prop :=
  ∀ (q : Port) (t : Micros),
    (q.tsrBusy = true → q.charEnd = { q with tsrRem := q.tsrRem - 1#6, tsrBusy := decide (q.tsrRem ≠ 1#6) }) ∧
    (q.tsrBusy = false → q.charEnd = q) ∧
    (q.tsrBusy = true ∨ q.thrFull = false → q.charStart t = q) ∧
    (q.tsrBusy = false → q.thrFull = true →
      q.charStart t = { q with
        tsr := q.thr, thrFull := false, tsrBusy := true, tsrRem := 44#6, wire := q.wire ++ [.char t q.thr] } ∧
      (∀ k < 44, (Port.charEnd^[k] (q.charStart t)).tsrBusy = true) ∧
      (Port.charEnd^[44] (q.charStart t)).tsrBusy = false)

/-- R57: the driver-enable pin follows the direction; the transmit pin is forced low while the break condition is on, otherwise
it shifts the character of the shift register while the transmitter is busy, otherwise it is idle high. That it is said of whole
characters, and not of the bits of the one being shifted, is the model's choice (log entry 12). -/
def Obligations.PinsFollowDirectionAndBreak : Prop :=
  ∀ q : Port, (q.dePin = true ↔ q.dir = .output) ∧ (q.txdPin = .space ↔ q.brk = true) ∧
    (q.brk = false → q.tsrBusy = true → q.txdPin = .shifting q.tsr) ∧
    (q.txdPin = .mark ↔ q.brk = false ∧ q.tsrBusy = false)

/-! ### Receive (41_receive_fsm.md) -/

/-- R170: a line event of a port that is not rx_active changes nothing. -/
def Obligations.LineEventsOfAClosedPortAreDropped : Prop :=
  ∀ (s : State) (p : Nat) (q : Port) (v : Byte) (rest : List Event), s.ports[p]? = some q →
    ¬(q.dir = .input ∧ q.enableData = true) →
    ∀ e ∈ [Event.lineError p, Event.lineMark p, Event.lineChar p v], s.inputs = e :: rest →
      step s = .next { s with inputs := rest }

/-- R171, R172: a line error brings the machine to PRE_BREAK from every state, a mark brings it on from there only. -/
def Obligations.LineErrorAndMarkLeadToBreak : Prop :=
  ∀ (s : State) (p : Nat) (q : Port) (rest : List Event), s.ports[p]? = some q → q.dir = .input → q.enableData = true →
    (s.inputs = .lineError p :: rest → step s = .next { s.withPortSet p
      { q with rxState := .preBreak, rxQuietArmed := false } with inputs := rest }) ∧
    (s.inputs = .lineMark p :: rest → step s = .next { s.withPortSet p
      { q with rxState := if q.rxState = .preBreak then .brk else q.rxState } with inputs := rest })

/-- R173 to R176: the first character after the break chooses the branch and starts the entry it fills; in IDLE and PRE_BREAK a
character only restarts the quiet counter. -/
def Obligations.FirstCharacterAfterBreakChoosesTheBranch : Prop :=
  ∀ (s : State) (p : Nat) (q : Port) (v : Byte) (rest : List Event), s.ports[p]? = some q → q.dir = .input →
    q.enableData = true → s.inputs = .lineChar p v :: rest → ∃ q' : Port,
      step s = .next { s.withPortSet p q' with inputs := rest } ∧ q'.rxQuiet = 0#32 ∧ q'.rxQuietArmed = true ∧
      (q.rxState = .idle ∨ q.rxState = .preBreak → q' = { q with rxQuiet := 0#32, rxQuietArmed := true }) ∧
      (q.rxState = .brk → v = 0x00#8 → q'.rxState = .dmxData ∧
        (q'.dmxRing.get q.dmxHead).data.read 0 = 0x00#8 ∧ (q'.dmxRing.get q.dmxHead).slots = 0#10) ∧
      (q.rxState = .brk → v = 0xCC#8 → q'.rxState = .rdmData ∧
        (q'.rdmRing.get q.rdmHead).data.read 0 = v ∧ (q'.rdmRing.get q.rdmHead).cksum.toNat = 0xCC ∧
        (q'.rdmRing.get q.rdmHead).cursor = 1#9 ∧ (q'.rdmRing.get q.rdmHead).discCnt = 0#4) ∧
      (q.rxState = .brk → v ≠ 0x00#8 → v ≠ 0xCC#8 →
        q'.rxState = (if v = 0xAA#8 then .discUid else .discPreamble) ∧
        (q'.rdmRing.get q.rdmHead).data.read 0 = v ∧ (q'.rdmRing.get q.rdmHead).cksum = 0#16 ∧
        (q'.rdmRing.get q.rdmHead).cursor = 1#9 ∧ (q'.rdmRing.get q.rdmHead).discCnt = 0#4)

/-- R180, R182: the close of a DMX frame counts it, stamps the record, publishes it unless the ring is full, and returns to IDLE;
no other entry of the ring and nothing else of the port changes. -/
def Obligations.ClosedFrameIsCountedAndPublishedUnlessTheRingIsFull : Prop :=
  ∀ q : Port, ∃ ring : Bank DmxRecord 2,
    q.closeDmxFrame = { q with
      rxFrames := q.rxFrames + 1#32
      dmxRing := ring
      dmxHead := if q.dmxHead + 1#2 = q.dmxTail then q.dmxHead else q.dmxHead + 1#2
      rxState := .idle } ∧
    ring.get q.dmxHead = { q.dmxRing.get q.dmxHead with updates := q.rxFrames + 1#32 } ∧
    ∀ i, i ≠ q.dmxHead → ring.get i = q.dmxRing.get i

/-- R178, R179: the idle timer counts on an armed rx_active port only, and fires once, at 176; the timeout closes a DMX frame in
progress and is ignored in every other state. -/
def Obligations.IdleTimeoutClosesOnlyADmxFrame : Prop :=
  ∀ q : Port,
    (¬(q.dir = .input ∧ q.enableData = true) ∨ q.rxQuietArmed = false → q.idleTimer = q) ∧
    (q.dir = .input → q.enableData = true → q.rxQuietArmed = true →
      (q.rxQuiet ≠ 175#32 → q.idleTimer = { q with rxQuiet := q.rxQuiet + 1#32 }) ∧
      (q.rxQuiet = 175#32 → q.idleTimer =
        if q.rxState = .dmxData then Port.closeDmxFrame { q with rxQuiet := 176#32, rxQuietArmed := false }
        else { q with rxQuiet := 176#32, rxQuietArmed := false }))

/-- R192: the statistics tick comes when its countdown expires and latches the frames of the last window. -/
def Obligations.StatisticsTickLatchesTheWindow : Prop :=
  ∀ s : State,
    (2 ≤ s.statsTimer.toNat → s.statsCountdown = { s with statsTimer := s.statsTimer - 1#32 }) ∧
    (s.statsTimer = 1#32 → ∃ ps : List Port, s.statsCountdown = { s with statsTimer := 1000000#32, ports := ps } ∧
      ps.length = s.ports.length ∧
      ∀ (p : Nat) (q : Port), s.ports[p]? = some q →
        ps[p]? = some { q with ups := q.rxFrames - q.rxFramesPrev, rxFramesPrev := q.rxFrames })

/-- R96, R182: a line event leaves every published entry of both rings of the port as it is, and moves neither tail. -/
def Obligations.LineEventsKeepPublishedEntries : Prop :=
  ∀ (q : Port) (t : Micros) (v : Byte), ∀ q' ∈ [q.lineError, q.lineMark, q.lineChar t v],
    q'.dmxTail = q.dmxTail ∧ q'.rdmTail = q.rdmTail ∧
    (∀ i, Published q.dmxTail q.dmxHead i →
      q'.dmxRing.get i = q.dmxRing.get i ∧ Published q'.dmxTail q'.dmxHead i) ∧
    (∀ i, Published q.rdmTail q.rdmHead i →
      q'.rdmRing.get i = q.rdmRing.get i ∧ Published q'.rdmTail q'.rdmHead i)

/-- R338, R329 (c): a line event of one port leaves every other port and everything shared as it is. -/
def Obligations.LineEventsTouchOnlyTheirPort : Prop :=
  ∀ (s t : State) (p : Nat) (v : Byte) (rest : List Event),
    ∀ e ∈ [Event.lineError p, Event.lineMark p, Event.lineChar p v], s.inputs = e :: rest → step s = .next t →
      t = { s with inputs := rest, ports := t.ports } ∧ t.ports.length = s.ports.length ∧
      ∀ r, r ≠ p → t.ports[r]? = s.ports[r]?

/-- R193: break, mark, start code 0 and N slots (1 to 512), then, for N below 512, 176 quiet ticks, complete exactly one frame
with those bytes, and a GET_DMX that finds it at the tail returns it. -/
def Obligations.DmxFrameRoundTrip : Prop :=
  ∀ (q : Port) (now : Micros) (slots : List Byte), q.dir = .input → q.enableData = true →
    1 ≤ slots.length → slots.length ≤ 512 → q.dmxHead + 1#2 ≠ q.dmxTail →
    ∃ (fed done : Port),
      fed = slots.foldl (fun q v => q.lineChar now v) (q.lineError.lineMark.lineChar now 0x00#8) ∧
      done = (if slots.length = 512 then fed else Port.idleTimer^[176] fed) ∧
      (slots.length < 512 → fed.dmxHead = q.dmxHead ∧ fed.rxFrames = q.rxFrames) ∧
      done.dmxHead = q.dmxHead + 1#2 ∧ done.dmxTail = q.dmxTail ∧ done.rxFrames = q.rxFrames + 1#32 ∧
      done.rxState = .idle ∧
      (done.dmxRing.get q.dmxHead).slots.toNat = slots.length ∧
      (done.dmxRing.get q.dmxHead).updates = q.rxFrames + 1#32 ∧
      (done.dmxRing.get q.dmxHead).data.bytes 0 (slots.length + 1) = 0x00#8 :: slots ∧
      ∀ (s : State) (port : BitVec 4), s.ports[port.toNat]? = some done → q.dmxHead = q.dmxTail →
        ∃ t, exec (.getDmx port) s = .next t ∧ t.err = .none ∧ t.valid = true ∧ t.result0.toNat = slots.length ∧
          t.rbuf.bytes 0 (slots.length + 1) = 0x00#8 :: slots

/-- R194: more than 512 characters after start code 0 yield one frame clamped to 512 slots; the machine is then in IDLE, stays
there through a quiet time, and the next line error takes it to PRE_BREAK. -/
def Obligations.OverlongFrameIsClamped : Prop :=
  ∀ (q : Port) (now : Micros) (slots : List Byte), q.dir = .input → q.enableData = true →
    512 < slots.length → q.dmxHead + 1#2 ≠ q.dmxTail →
    ∃ (fed : Port),
      fed = slots.foldl (fun q v => q.lineChar now v) (q.lineError.lineMark.lineChar now 0x00#8) ∧
      fed.dmxHead = q.dmxHead + 1#2 ∧ fed.rxFrames = q.rxFrames + 1#32 ∧ fed.rxState = .idle ∧
      (fed.dmxRing.get q.dmxHead).slots.toNat = 512 ∧
      (fed.dmxRing.get q.dmxHead).data.bytes 0 513 = 0x00#8 :: slots.take 512 ∧
      (Port.idleTimer^[176] fed).rxState = .idle ∧ (Port.idleTimer^[176] fed).rxFrames = q.rxFrames + 1#32 ∧
      fed.lineError.rxState = .preBreak

/-- R175, R181 to R185: after break and mark, a message whose declared length is its own is delivered exactly when the two bytes
that follow it are its 16-bit sum, high byte first, and its second byte is the sub-start-code: the completion is stamped, and the
packet is published unless the ring is full. Otherwise it is dropped, with no stamp and no move of the head. A message that
declares a length of 0, 1 or 2 is given up, with neither, at its 255th byte. In every case the machine is then in IDLE. -/
def Obligations.RdmMessageIsDeliveredIffItsChecksumMatches : Prop :=
  (∀ (q : Port) (now : Micros) (msg : List Byte) (hi lo : Byte), q.dir = .input → q.enableData = true →
    3 ≤ msg.length → msg.length ≤ 255 → msg[0]? = some 0xCC#8 → msg[2]? = some (BitVec.ofNat 8 msg.length) →
    ∃ (fed : Port),
      fed = (msg ++ [hi, lo]).foldl (fun q v => q.lineChar now v) q.lineError.lineMark ∧
      fed.rxState = .idle ∧ fed.rdmTail = q.rdmTail ∧
      ((256 * hi.toNat + lo.toNat = (msg.map BitVec.toNat).sum % 65536 ∧ msg[1]? = some 0x01#8) →
        fed.rdmHead = (if q.rdmHead + 1#3 = q.rdmTail then q.rdmHead else q.rdmHead + 1#3) ∧ fed.rxDoneTs = now ∧
        (fed.rdmRing.get q.rdmHead).cursor.toNat = msg.length + 2 ∧
        (fed.rdmRing.get q.rdmHead).data.bytes 0 (msg.length + 2) = msg ++ [hi, lo]) ∧
      (¬(256 * hi.toNat + lo.toNat = (msg.map BitVec.toNat).sum % 65536 ∧ msg[1]? = some 0x01#8) →
        fed.rdmHead = q.rdmHead ∧ fed.rxDoneTs = q.rxDoneTs)) ∧
  (∀ (q : Port) (now : Micros) (msg : List Byte), q.dir = .input → q.enableData = true →
    msg.length ≤ 255 → msg[0]? = some 0xCC#8 → (∀ ml, msg[2]? = some ml → ml.toNat ≤ 2) →
    ∃ (fed : Port),
      fed = msg.foldl (fun q v => q.lineChar now v) q.lineError.lineMark ∧
      fed.rxState = (if msg.length = 255 then .idle else .rdmData) ∧
      fed.rdmHead = q.rdmHead ∧ fed.rdmTail = q.rdmTail ∧ fed.rxDoneTs = q.rxDoneTs)

/-- R176, R182, R185 to R188: after break and mark, preamble bytes and the byte that ends them, 12 bytes and 4 bytes are one
packet, whatever the last 16 bytes are: the completion is stamped, and the packet is published unless the ring is full. What ends
the preamble is the terminator 0xAA after at most DISC_PREAMBLE_MAX = 7 bytes, or the ninth byte whatever it is. -/
def Obligations.DiscoveryResponseIsDelivered : Prop :=
  ∀ (q : Port) (now : Micros) (pre body : List Byte) (last : Byte), q.dir = .input → q.enableData = true →
    (pre.length ≤ Config.discPreambleMax ∧ last = 0xAA#8) ∨ pre.length = 8 →
    (∀ v ∈ pre, v ≠ 0xAA#8) → (∀ v ∈ pre.head?, v ≠ 0x00#8 ∧ v ≠ 0xCC#8) → body.length = 16 →
    ∃ (passed fed : Port),
      passed = (pre ++ [last]).foldl (fun q v => q.lineChar now v) q.lineError.lineMark ∧
      fed = body.foldl (fun q v => q.lineChar now v) passed ∧
      passed.rxState = .discUid ∧ passed.rdmHead = q.rdmHead ∧
      fed.rxState = .idle ∧ fed.rdmTail = q.rdmTail ∧ fed.rxDoneTs = now ∧
      fed.rdmHead = (if q.rdmHead + 1#3 = q.rdmTail then q.rdmHead else q.rdmHead + 1#3) ∧
      (fed.rdmRing.get q.rdmHead).cursor.toNat = pre.length + 17 ∧
      (fed.rdmRing.get q.rdmHead).data.bytes 0 (pre.length + 17) = pre ++ last :: body

/-- R190: GET_DMX on an empty ring returns None; otherwise it copies the start code and the slots of the record at the tail to
RBUF, advances the tail and returns the counts. RBUF bytes above keep what they held, and nothing else changes. -/
def Obligations.GetDmxPopsTheOldestRecord : Prop :=
  ∀ (port : BitVec 4) (s : State) (q : Port), s.ports[port.toNat]? = some q →
    (q.dmxHead = q.dmxTail → exec (.getDmx port) s = .next (ended .none false 0#32 0#32 s)) ∧
    (q.dmxHead ≠ q.dmxTail → ∃ (r : DmxRecord) (rb : Buffer), r = q.dmxRing.get q.dmxTail ∧
      exec (.getDmx port) s = .next (ended .none true (r.slots.zeroExtend 32) r.updates
        { s.withPortSet port.toNat { q with dmxTail := q.dmxTail + 1#2 } with rbuf := rb }) ∧
      ∀ i, rb.read i = if i ≤ r.slots.toNat then r.data.read i else s.rbuf.read i)

/-- R191: GET_UPS returns `ups[p]`. -/
def Obligations.GetUpsReturnsTheWindowCount : Prop :=
  ∀ (port : BitVec 4) (s : State) (q : Port), s.ports[port.toNat]? = some q →
    exec (.getUps port) s = .next (ended .none false q.ups 0#32 s)

/-! ### RDM primitives (43_rdm_primitives.md) -/

/-- R255: RDM_SENDRAW, from its checks to its wait and its ending. -/
def Obligations.RdmSendrawChecksWaitsAndEnds : Prop :=
  (∀ (port : BitVec 4) (len : BitVec 10) (s : State) (q : Port), s.ports[port.toNat]? = some q →
    exec (.rdmSendraw port len) s = .next (
      if len.toNat = 0 ∨ 512 < len.toNat then ended .length false 0#32 0#32 s
      else if ¬(q.dir = .output ∧ q.enableData = false) then ended .portState false 0#32 0#32 s
      else { s with cmdLen := len, busy := true, cmdPhase := .wait })) ∧
  (∀ (s : State) (q : Port), s.cmdWord.extractLsb' 24 8 = 0x20#8 →
    s.ports[(s.cmdWord.extractLsb' 20 4).toNat]? = some q → s.cmdPhase = .wait →
    s.commandStep =
      if s.arg = 0#32 ∨ s.arg.toNat ≤ (s.micros - q.lastSendTs).toNat then
        { s.withPortSet (s.cmdWord.extractLsb' 20 4).toNat
            { q with lastSendTs := s.micros, brk := true, wire := q.wire ++ [.brkOn s.micros] } with
          cmdT0 := s.micros
          cmdPhase := .brk }
      else s) ∧
  (∀ (s : State) (q : Port), s.cmdWord.extractLsb' 24 8 = 0x20#8 →
    s.ports[(s.cmdWord.extractLsb' 20 4).toNat]? = some q → s.cmdPhase = .drain →
    s.commandStep =
      if q.thrFull = false ∧ q.tsrBusy = false then ended .none false 0#32 0#32 s else s)

/-- R256, R250, R89: RDM_SEND: its checks; at the end of its wait the transaction number and then the big-endian sum of the
message are in PBUF, no other byte of it changed; at its end the transaction number goes up by one, mod 256. -/
def Obligations.RdmSendNumbersAndChecksumsTheMessage : Prop :=
  (∀ (port : BitVec 4) (s : State) (q : Port) (ml : Nat), s.ports[port.toNat]? = some q → ml = (s.pbuf.read 2).toNat →
    exec (.rdmSend port) s = .next (
      if ml ≤ 15 then ended .length false 0#32 0#32 s
      else if ¬(q.dir = .output ∧ q.enableData = false) then ended .portState false 0#32 0#32 s
      else { s with cmdLen := BitVec.ofNat 10 (ml + 2), busy := true, cmdPhase := .wait })) ∧
  (∀ (s : State) (q : Port) (ml : Nat), s.cmdWord.extractLsb' 24 8 = 0x21#8 →
    s.ports[(s.cmdWord.extractLsb' 20 4).toNat]? = some q → s.cmdPhase = .wait → ml = (s.pbuf.read 2).toNat → 15 < ml →
    (¬(s.arg = 0#32 ∨ s.arg.toNat ≤ (s.micros - q.lastSendTs).toNat) → s.commandStep = s) ∧
    ((s.arg = 0#32 ∨ s.arg.toNat ≤ (s.micros - q.lastSendTs).toNat) → ∃ pb : Buffer,
      s.commandStep =
        { s.withPortSet (s.cmdWord.extractLsb' 20 4).toNat
            { q with lastSendTs := s.micros, brk := true, wire := q.wire ++ [.brkOn s.micros] } with
          pbuf := pb
          cmdT0 := s.micros
          cmdPhase := .brk } ∧
      pb.read 15 = q.tn ∧
      256 * (pb.read ml).toNat + (pb.read (ml + 1)).toNat = ((pb.bytes 0 ml).map BitVec.toNat).sum % 65536 ∧
      ∀ i, i ≠ 15 → i ≠ ml → i ≠ ml + 1 → pb.read i = s.pbuf.read i)) ∧
  (∀ (s : State) (q : Port), s.cmdWord.extractLsb' 24 8 = 0x21#8 →
    s.ports[(s.cmdWord.extractLsb' 20 4).toNat]? = some q → s.cmdPhase = .drain →
    s.commandStep =
      if q.thrFull = false ∧ q.tsrBusy = false then
        ended .none false 0#32 0#32 (s.withPortSet (s.cmdWord.extractLsb' 20 4).toNat { q with tn := q.tn + 1#8 })
      else s)

/-- R259: RDM_RESPOND_RAW, from its checks to its turnaround wait and its ending. -/
def Obligations.RdmRespondRawChecksWaitsAndEnds : Prop :=
  (∀ (port : BitVec 4) (len : BitVec 10) (s : State) (q : Port), s.ports[port.toNat]? = some q →
    exec (.rdmRespondRaw port len) s = .next (
      if len.toNat = 0 ∨ 512 < len.toNat then ended .length false 0#32 0#32 s
      else if ¬(q.dir = .output ∧ q.enableData = false) then ended .portState false 0#32 0#32 s
      else { s with cmdLen := len, busy := true, cmdPhase := .wait })) ∧
  (∀ (s : State) (q : Port), s.cmdWord.extractLsb' 24 8 = 0x24#8 →
    s.ports[(s.cmdWord.extractLsb' 20 4).toNat]? = some q → s.cmdPhase = .wait →
    s.commandStep =
      if 176 ≤ (s.micros - q.rxDoneTs).toNat then
        { s.withPortSet (s.cmdWord.extractLsb' 20 4).toNat
            { q with lastSendTs := s.micros, brk := true, wire := q.wire ++ [.brkOn s.micros] } with
          cmdT0 := s.micros
          cmdPhase := .brk }
      else s) ∧
  (∀ (s : State) (q : Port), s.cmdWord.extractLsb' 24 8 = 0x24#8 →
    s.ports[(s.cmdWord.extractLsb' 20 4).toNat]? = some q → s.cmdPhase = .drain →
    s.commandStep =
      if q.thrFull = false ∧ q.tsrBusy = false then ended .none false 0#32 0#32 s else s)

/-- R260, R294, R295: RDM_RESPOND_DISC: its checks; at the end of the turnaround the port stops receiving and is turned to
OUTPUT and its first byte is handed over with no break; after the last byte the direction-switch delay; then the port is INPUT
with data enabled. -/
def Obligations.RdmRespondDiscTurnsThePortRoundAndBack : Prop :=
  (∀ (port : BitVec 4) (len : BitVec 10) (s : State) (q : Port), s.ports[port.toNat]? = some q →
    exec (.rdmRespondDisc port len) s = .next (
      if len.toNat = 0 ∨ 512 < len.toNat then ended .length false 0#32 0#32 s
      else if q.dir = .output ∧ q.enableData = true then ended .portState false 0#32 0#32 s
      else { s with cmdLen := len, busy := true, cmdPhase := .wait })) ∧
  (∀ (s : State) (q : Port), s.cmdWord.extractLsb' 24 8 = 0x25#8 →
    s.ports[(s.cmdWord.extractLsb' 20 4).toNat]? = some q → s.cmdPhase = .wait →
    s.commandStep =
      if 176 ≤ (s.micros - q.rxDoneTs).toNat then
        { s.withPortSet (s.cmdWord.extractLsb' 20 4).toNat
            { q with
              dir := .output
              enableData := false
              rxState := .idle
              rxQuietArmed := false
              lastSendTs := s.micros
              thr := s.pbuf.read 0
              thrFull := true
              wire := if q.dir = .output then q.wire else q.wire ++ [.oeOn s.micros] } with
          cmdPos := 1#10
          cmdPhase := if s.cmdLen = 1#10 then .drain else .data }
      else s) ∧
  (∀ (s : State) (q : Port), s.cmdWord.extractLsb' 24 8 = 0x25#8 →
    s.ports[(s.cmdWord.extractLsb' 20 4).toNat]? = some q → s.cmdPhase = .drain →
    s.commandStep =
      if q.thrFull = false ∧ q.tsrBusy = false then { s with cmdT0 := s.micros, cmdPhase := .post } else s) ∧
  (∀ (s : State) (q : Port), s.cmdWord.extractLsb' 24 8 = 0x25#8 →
    s.ports[(s.cmdWord.extractLsb' 20 4).toNat]? = some q → s.cmdPhase = .post → q.dir = .output →
    s.commandStep =
      if 4 ≤ (s.micros - s.cmdT0).toNat then
        ended .none false 0#32 0#32 (s.withPortSet (s.cmdWord.extractLsb' 20 4).toNat
          { q with
            dir := .input
            enableData := true
            rxState := .idle
            rxQuietArmed := false
            wire := q.wire ++ [.oeOff s.micros] })
      else s)

/-- R253: phases BREAK, MAB and DATA of a raw transmission: the break lasts 176, the mark 12, and each byte of PBUF is handed
over as soon as the holding register is free. The first two are phases of RDM_SENDRAW, RDM_SEND and RDM_RESPOND_RAW, the third
also of RDM_RESPOND_DISC. -/
def Obligations.RawTransmissionSendsBreakMarkAndBytes : Prop :=
  ∀ (s : State) (p : Nat) (q : Port) (op : BitVec 8), op = s.cmdWord.extractLsb' 24 8 →
    p = (s.cmdWord.extractLsb' 20 4).toNat → s.ports[p]? = some q →
    (op = 0x20#8 ∨ op = 0x21#8 ∨ op = 0x24#8 → s.cmdPhase = .brk → s.commandStep =
      if 176 ≤ (s.micros - s.cmdT0).toNat then
        { s.withPortSet p { q with brk := false, wire := q.wire ++ [.brkOff s.micros] } with
          cmdT0 := s.micros
          cmdPhase := .mab }
      else s) ∧
    (op = 0x20#8 ∨ op = 0x21#8 ∨ op = 0x24#8 → s.cmdPhase = .mab → s.commandStep =
      if 12 ≤ (s.micros - s.cmdT0).toNat then
        { s.withPortSet p { q with thr := s.pbuf.read 0, thrFull := true } with
          cmdPos := 1#10
          cmdPhase := if s.cmdLen = 1#10 then .drain else .data }
      else s) ∧
    (op = 0x20#8 ∨ op = 0x21#8 ∨ op = 0x24#8 ∨ op = 0x25#8 → s.cmdPhase = .data → s.commandStep =
      if q.thrFull = false then
        { s.withPortSet p { q with thr := s.pbuf.read s.cmdPos.toNat, thrFull := true } with
          cmdPos := s.cmdPos + 1#10
          cmdPhase := if s.cmdPos + 1#10 = s.cmdLen then .drain else .data }
      else s)

/-- R257: RDM_RECV on an empty ring returns None; otherwise it copies the packet at the tail to RBUF, advances the tail and
returns the byte count. -/
def Obligations.RdmRecvPopsTheOldestPacket : Prop :=
  ∀ (port : BitVec 4) (s : State) (q : Port), s.ports[port.toNat]? = some q →
    (q.rdmHead = q.rdmTail → exec (.rdmRecv port) s = .next (ended .none false 0#32 0#32 s)) ∧
    (q.rdmHead ≠ q.rdmTail → ∃ (r : RdmBuf) (rb : Buffer), r = q.rdmRing.get q.rdmTail ∧
      exec (.rdmRecv port) s = .next (ended .none true (r.cursor.zeroExtend 32) 0#32
        { s.withPortSet port.toNat { q with rdmTail := q.rdmTail + 1#3 } with rbuf := rb }) ∧
      ∀ i, rb.read i = if i < r.cursor.toNat then r.data.read i else s.rbuf.read i)

/-- R258: RDM_RECV_TO: a packet already there is delivered at once, a zero timeout returns None at once, otherwise the command
waits; in the wait, availability is tested before the deadline. -/
def Obligations.RdmRecvToDeliversOrTimesOut : Prop :=
  (∀ (port : BitVec 4) (s : State) (q : Port), s.ports[port.toNat]? = some q →
    (q.rdmHead ≠ q.rdmTail → ∃ (r : RdmBuf) (rb : Buffer), r = q.rdmRing.get q.rdmTail ∧
      exec (.rdmRecvTo port) s = .next (ended .none true (r.cursor.zeroExtend 32) 0#32
        { s.withPortSet port.toNat { q with rdmTail := q.rdmTail + 1#3 } with rbuf := rb, cmdT0 := s.micros }) ∧
      ∀ i, rb.read i = if i < r.cursor.toNat then r.data.read i else s.rbuf.read i) ∧
    (q.rdmHead = q.rdmTail → s.arg = 0#32 →
      exec (.rdmRecvTo port) s = .next (ended .none false 0#32 0#32 { s with cmdT0 := s.micros })) ∧
    (q.rdmHead = q.rdmTail → s.arg ≠ 0#32 →
      exec (.rdmRecvTo port) s = .next { s with cmdT0 := s.micros, busy := true, cmdPhase := .recvWait })) ∧
  (∀ (s : State) (p : Nat) (q : Port), s.cmdWord.extractLsb' 24 8 = 0x23#8 →
    p = (s.cmdWord.extractLsb' 20 4).toNat → s.ports[p]? = some q → s.cmdPhase = .recvWait →
    (q.rdmHead ≠ q.rdmTail → ∃ (r : RdmBuf) (rb : Buffer), r = q.rdmRing.get q.rdmTail ∧
      s.commandStep = ended .none true (r.cursor.zeroExtend 32) 0#32
        { s.withPortSet p { q with rdmTail := q.rdmTail + 1#3 } with rbuf := rb } ∧
      ∀ i, rb.read i = if i < r.cursor.toNat then r.data.read i else s.rbuf.read i) ∧
    (q.rdmHead = q.rdmTail → s.commandStep =
      if s.arg.toNat ≤ (s.micros - s.cmdT0).toNat then ended .none false 0#32 0#32 s else s))

/-! ### Port controller (44_port_controller.md) -/

/-- R290, R298: a SET_DIR whose direction operand is 0 or 3 completes with E_OPERAND, one that asks for what the port already is
completes with E_NONE, and neither changes any state but the mailbox's. -/
def Obligations.SetDirOfIllegalOrCurrentModeChangesNothing : Prop :=
  ∀ (port : BitVec 4) (e : BitVec 1) (d : BitVec 2) (s : State) (q : Port), s.ports[port.toNat]? = some q →
    (d = 0#2 ∨ d = 3#2 → exec (.setDir port e d) s = .next (ended .operand false 0#32 0#32 s)) ∧
    (d = q.dir.bits → d ≠ 0#2 → (q.enableData = true ↔ e = 1#1) →
      exec (.setDir port e d) s = .next (ended .none false 0#32 0#32 s))

/-- R290, R292 to R296: a SET_DIR of a port that is not sending, with a legal direction that asks for a change, takes effect in
the accepting write: the port has the direction and the enable asked for; the receive path is stopped where it was on or is
turned on anew; the driver-enable edge is recorded; and nothing else changes. -/
def Obligations.SetDirWithoutDrainTakesEffectAtOnce : Prop :=
  ∀ (port : BitVec 4) (e : BitVec 1) (d : BitVec 2) (dir : Dir) (s : State) (q : Port), s.ports[port.toNat]? = some q →
    (d = 1#2 ∧ dir = .input) ∨ (d = 2#2 ∧ dir = .output) →
    ¬(q.dir = .output ∧ q.enableData = true) → q.Legal →
    ¬(dir = q.dir ∧ (q.enableData = true ↔ e = 1#1)) →
    exec (.setDir port e d) s = .next (ended .none false 0#32 0#32 (s.withPortSet port.toNat
      { q with
        dir := dir
        enableData := decide (e = 1#1)
        rxState := if (dir = q.dir ∧ e = 1#1) ∨ (q.dir ≠ .input ∧ dir ≠ .input) then q.rxState else .idle
        rxQuietArmed := if (dir = q.dir ∧ e = 1#1) ∨ (q.dir ≠ .input ∧ dir ≠ .input) then q.rxQuietArmed else false
        wire := if q.dir ≠ .output ∧ dir = .output then q.wire ++ [.oeOn s.micros]
          else if q.dir = .output ∧ dir ≠ .output then q.wire ++ [.oeOff s.micros] else q.wire }))

/-- R293: a SET_DIR that takes a sending port out of OUTPUT or disables it only starts the drain in the accepting write; phase 7
waits for INTER_FRAME and disables the port; phase 8 waits for the DMA channel and the transmitter and then switches, enabling
if asked. -/
def Obligations.SetDirDrainsASendingPort : Prop :=
  (∀ (port : BitVec 4) (e : BitVec 1) (d : BitVec 2) (s : State) (q : Port), s.ports[port.toNat]? = some q →
    q.dir = .output → q.enableData = true → d = 1#2 ∨ (d = 2#2 ∧ e = 0#1) →
    exec (.setDir port e d) s = .next { s with busy := true, cmdPhase := .dirA }) ∧
  (∀ (s : State) (p : Nat) (q : Port), s.cmdWord.extractLsb' 24 8 = 0x10#8 →
    p = (s.cmdWord.extractLsb' 20 4).toNat → s.ports[p]? = some q → s.cmdPhase = .dirA →
    s.commandStep =
      if s.schedState = .interFrame then { s.withPortSet p { q with enableData := false } with cmdPhase := .dirB }
      else s) ∧
  (∀ (s : State) (p : Nat) (q : Port) (e : BitVec 1), s.cmdWord.extractLsb' 24 8 = 0x10#8 →
    p = (s.cmdWord.extractLsb' 20 4).toNat → s.ports[p]? = some q → s.cmdPhase = .dirB → q.dir = .output →
    q.enableData = false → e = s.cmdWord.extractLsb' 2 1 →
    (¬(q.dmaBusy = false ∧ q.thrFull = false ∧ q.tsrBusy = false) → s.commandStep = s) ∧
    (q.dmaBusy = false ∧ q.thrFull = false ∧ q.tsrBusy = false → s.cmdWord.extractLsb' 0 2 = 1#2 →
      s.commandStep = ended .none false 0#32 0#32 (s.withPortSet p
        { q with
          dir := .input
          enableData := decide (e = 1#1)
          rxState := .idle
          rxQuietArmed := false
          wire := q.wire ++ [.oeOff s.micros] })) ∧
    (q.dmaBusy = false ∧ q.thrFull = false ∧ q.tsrBusy = false → s.cmdWord.extractLsb' 0 2 = 2#2 →
      s.commandStep = ended .none false 0#32 0#32 (s.withPortSet p { q with enableData := decide (e = 1#1) })))

/-! ### Host bus and registers (20_memory.md, 10_state.md) -/

/-- R85, R82: a host read changes nothing but the answer pins. -/
def Obligations.HostReadHasNoSideEffect : Prop :=
  ∀ (s t : State) (addr : BitVec 13) (rest : List Event), s.inputs = .hostRead addr :: rest → step s = .next t →
    t = { s with inputs := rest, busErr := t.busErr, busRdata := t.busRdata } ∧ (t.busErr = true ↔ addr.toNat % 4 ≠ 0)

/-- R84, R86, R87: a misaligned read or write is refused on the `err` pin and changes nothing; while BUSY is 1 a write to CMD,
ARG or PBUF is ignored and sets OVR; a write to a read-only register, to RBUF or to a reserved offset is ignored. -/
def Obligations.RefusedAndIgnoredAccessesChangeNothing : Prop :=
  ∀ (s : State) (addr : BitVec 13) (v : Word) (rest : List Event),
    (addr.toNat % 4 ≠ 0 → ∀ e ∈ [Event.hostRead addr, Event.hostWrite addr v], s.inputs = e :: rest →
      step s = .next { s with inputs := rest, busErr := true, busRdata := 0#32 }) ∧
    (addr.toNat % 4 = 0 → s.inputs = .hostWrite addr v :: rest →
      (addr.toNat = 0x000 ∨ addr.toNat = 0x004 ∨ (0x1000 ≤ addr.toNat ∧ addr.toNat ≤ 0x11FC)) → s.busy = true →
      step s = .next { s with inputs := rest, busErr := false, ovr := true }) ∧
    (addr.toNat % 4 = 0 → s.inputs = .hostWrite addr v :: rest →
      ¬(addr.toNat = 0x000 ∨ addr.toNat = 0x004 ∨ (0x1000 ≤ addr.toNat ∧ addr.toNat ≤ 0x11FC)) →
      step s = .next { s with inputs := rest, busErr := false })

/-- R83, R88, R82, R31: while BUSY is 0, a word written to ARG is held there, and a word written to PBUF puts its bytes there,
least significant first; nothing else changes, and the word is read back at the same address. -/
def Obligations.PbufWordIsWrittenLittleEndianAndReadBack : Prop :=
  (∀ (s : State) (v : Word) (rest : List Event), s.busy = false →
    s.inputs = .hostWrite 0x004#13 v :: .hostRead 0x004#13 :: rest →
    ∃ t u : State,
      step s = .next t ∧ t = { s with inputs := .hostRead 0x004#13 :: rest, busErr := false, arg := v } ∧
      step t = .next u ∧ u.busErr = false ∧ u.busRdata = v) ∧
  ∀ (s : State) (addr : BitVec 13) (v : Word) (rest : List Event), addr.toNat % 4 = 0 → 0x1000 ≤ addr.toNat →
    addr.toNat ≤ 0x11FC → s.busy = false → s.inputs = .hostWrite addr v :: .hostRead addr :: rest →
    ∃ (pb : Buffer) (t u : State),
      step s = .next t ∧ t = { s with inputs := .hostRead addr :: rest, busErr := false, pbuf := pb } ∧
      (∀ i, pb.read i = if 0x1000 + i < addr.toNat ∨ addr.toNat + 4 ≤ 0x1000 + i then s.pbuf.read i
        else v.extractLsb' (8 * ((0x1000 + i) - addr.toNat)) 8) ∧
      step t = .next u ∧ u.busErr = false ∧ u.busRdata = v

/-- R43 with R29 to R37, R82, R87, R88: what a read answers at every aligned offset outside the port blocks. -/
def Obligations.GlobalRegistersReadAtTheirOffsets : Prop :=
  ∀ (s t : State) (addr : BitVec 13) (rest : List Event), s.inputs = .hostRead addr :: rest → addr.toNat % 4 = 0 →
    step s = .next t →
    (addr = 0x000#13 → t.busRdata = s.cmdWord) ∧
    (addr = 0x004#13 → t.busRdata = s.arg) ∧
    (addr = 0x008#13 → t.busRdata.toNat = s.busy.toNat + 2 * s.valid.toNat + 4 * s.ovr.toNat
      + 16 * s.err.bits.toNat + 256 * s.opc.toNat) ∧
    (addr = 0x00C#13 → t.busRdata = s.result0) ∧
    (addr = 0x010#13 → t.busRdata = s.result1) ∧
    (addr = 0x014#13 → t.busRdata = s.micros) ∧
    (addr = 0x018#13 → t.busRdata.toNat = s.schedState.bits.toNat) ∧
    (addr = 0x01C#13 → t.busRdata = s.period) ∧
    (addr = 0x020#13 → t.busRdata.toNat = s.breakTime.toNat) ∧
    (addr = 0x024#13 → t.busRdata.toNat = s.mabTime.toNat) ∧
    (addr = 0x028#13 → t.busRdata.toNat = s.periodReq.toNat) ∧
    (addr = 0x02C#13 → t.busRdata.toNat = s.slots.toNat) ∧
    (addr = 0x030#13 → t.busRdata = s.schedTimer) ∧
    (addr = 0x034#13 → s.ports.length < 16 → t.busRdata.toNat = s.ports.length + 16 * 2 + 256 * 3 + 4096 * 6
      + 65536 * 0xCC + 16777216 * 0x01) ∧
    (0x038 ≤ addr.toNat → addr.toNat ≤ 0x0FC → t.busRdata = 0#32) ∧
    (0x200 ≤ addr.toNat → addr.toNat < 0x1000 → t.busRdata = 0#32) ∧
    (∀ i, addr.toNat = 0x1000 + i → i < 512 → t.busRdata.toNat = (s.pbuf.read i).toNat + 256 * (s.pbuf.read (i + 1)).toNat
      + 65536 * (s.pbuf.read (i + 2)).toNat + 16777216 * (s.pbuf.read (i + 3)).toNat) ∧
    (0x1200 ≤ addr.toNat → addr.toNat < 0x1400 → t.busRdata = 0#32) ∧
    (∀ i, addr.toNat = 0x1400 + i → i < 512 → t.busRdata.toNat = (s.rbuf.read i).toNat + 256 * (s.rbuf.read (i + 1)).toNat
      + 65536 * (s.rbuf.read (i + 2)).toNat + 16777216 * (s.rbuf.read (i + 3)).toNat) ∧
    (addr.toNat = 0x1600 → t.busRdata.toNat = (s.rbuf.read 512).toNat) ∧
    (0x1604 ≤ addr.toNat → t.busRdata = 0#32)

/-- R43 with R38 to R42: what a read answers at every aligned offset of the port blocks; the blocks of absent ports and the
offsets from +0x20 up are reserved and read 0. -/
def Obligations.PortRegistersReadAtTheirOffsets : Prop :=
  ∀ (s t : State) (addr : BitVec 13) (p off : Nat) (rest : List Event), s.inputs = .hostRead addr :: rest →
    addr.toNat = 0x100 + 0x40 * p + off → off < 0x40 → off % 4 = 0 → p < 4 → step s = .next t →
    (s.ports.length ≤ p ∨ 0x20 ≤ off → t.busRdata = 0#32) ∧
    ∀ q, s.ports[p]? = some q →
      (off = 0x00 → t.busRdata.toNat = q.dir.bits.toNat + 4 * q.enableData.toNat + 8 * q.txset.toNat
        + 16 * q.rxState.bits.toNat + 256 * q.brk.toNat + 512 * q.thrFull.toNat + 1024 * q.tsrBusy.toNat
        + 2048 * q.dmaBusy.toNat + 4096 * q.stgValid.toNat + 8192 * q.stgSlot.toNat + 16384 * q.txWr.toNat
        + 32768 * q.txRd.toNat + 65536 * q.rxQuietArmed.toNat) ∧
      (off = 0x04 → t.busRdata.toNat = q.dmxHead.toNat + 256 * q.dmxTail.toNat + 65536 * q.rdmHead.toNat
        + 16777216 * q.rdmTail.toNat) ∧
      (off = 0x08 → t.busRdata.toNat = q.tn.toNat) ∧
      (off = 0x0C → t.busRdata = q.lastSendTs) ∧
      (off = 0x10 → t.busRdata = q.rxDoneTs) ∧
      (off = 0x14 → t.busRdata = q.ups) ∧
      (off = 0x18 → t.busRdata = q.rxFrames) ∧
      (off = 0x1C → t.busRdata.toNat = q.curLen.toNat + 65536 * q.stgLen.toNat)

/-! ### Frames and ownership (10_state.md R21, 20_memory.md R96, 60_exceptions.md R334) -/

/-- R404: only TXDATA stores to a transmit slot and only the getters store to RBUF; every byte of memory reads as before after
any other command's accepting write, and every byte outside RBUF after a getter's. -/
def Obligations.CommandsKeepTheBytesTheyDoNotStore : Prop :=
  ∀ (i : Instr) (s t : State), exec i s = .next t → (∀ port len, i ≠ .txdata port len) →
    (∀ id k, id ≠ .rbuf → t.byteAt id k = s.byteAt id k) ∧
    ((∀ port, i ≠ .getDmx port ∧ i ≠ .rdmRecv port ∧ i ≠ .rdmRecvTo port) → ∀ k, t.byteAt .rbuf k = s.byteAt .rbuf k)

/-- R334, R21: no command, in its accepting write or in a phase, writes `tx_rd`, `dmx_head`, `rdm_head`, `sched_state`,
`sched_timer` or the DMA channel. -/
def Obligations.CommandsDoNotWriteWhatOtherAgentsOwn : Prop :=
  ∀ (s t : State), (∃ i, exec i s = .next t) ∨ t = s.commandStep →
    t.schedState = s.schedState ∧ t.schedTimer = s.schedTimer ∧ t.ports.length = s.ports.length ∧
    ∀ (p : Nat) (q r : Port), s.ports[p]? = some q → t.ports[p]? = some r →
      r.txRd = q.txRd ∧ r.dmxHead = q.dmxHead ∧ r.rdmHead = q.rdmHead ∧
      r.dmaBusy = q.dmaBusy ∧ r.dmaSlot = q.dmaSlot ∧ r.dmaPos = q.dmaPos ∧ r.dmaLen = q.dmaLen

/-- R334, R330: no event step writes `tx_wr`, `dmx_tail`, `rdm_tail`, `dir` or `enable_data`, and the command in progress keeps its
word, phase and operands, over every line event and over a tick. In a tick only the command engine's own substep T7 may write
them: the substeps before it and the one after it do not, and with no command in progress the whole tick does not. -/
def Obligations.EventStepsDoNotWriteWhatTheHostOwns : Prop :=
  (∀ (s t : State) (e : Event) (rest : List Event), s.inputs = e :: rest → step s = .next t →
    (∃ p, e = .lineError p) ∨ (∃ p, e = .lineMark p) ∨ (∃ p v, e = .lineChar p v) → HostOwnedKept s t) ∧
  (∀ (s t : State) (rest : List Event), s.inputs = .tick :: rest → step s = .next t →
    ∃ before after : State,
      HostOwnedKept s before ∧ after = before.commandStep ∧
      t = { after with ports := after.ports.map (Port.charStart after.micros) } ∧ HostOwnedKept after t ∧
      (s.cmdPhase = .none → HostOwnedKept s t))

/-! ### Reset (10_state.md R60, 70_reset_and_hazards.md R360) -/

/-- R60, R360: a reset step puts every piece of state at its value of the reset table, whatever the state before it. Three things
it says are the model's choice and not the table's: that the buffers then list no written byte is the model's rendering of
"unspecified: the buffer memories are not cleared by reset" (log entries 4 and 7), and that the number of ports and the events
still to come are kept is log entry 7. -/
def Obligations.ResetStepRestoresTheResetTable : Prop :=
  ∀ (s : State) (rest : List Event), s.inputs = .reset :: rest →
    ∃ t, step s = .next t ∧ t.AtReset ∧ t.ports.length = s.ports.length ∧ t.inputs = rest

/-- R60: the model's reset state has the values of the reset table. That it has four ports is the default of R8, chosen in log
entry 1; that its buffers list no written byte is the model's rendering of "unspecified" (log entry 4). -/
def Obligations.ResetStateHasTheResetTable : Prop := State.reset.AtReset ∧ State.reset.ports.length = 4

/-! ### Invariants -/

/-- R61, R380, R406 and the canonical form of memory (log entry 4) hold at reset. -/
def Obligations.ResetStateMeetsTheInvariants : Prop :=
  State.reset.Legal ∧ State.reset.Quiet ∧ State.reset.IndexBounds ∧ State.reset.MemoryWf

/-- R61: every step from a legal state, reached or not, leads to a legal state. -/
def Obligations.EveryStepKeepsTheStateLegal : Prop := ∀ s t : State, s.Legal → step s = .next t → t.Legal

/-- R380: every step from a legal and quiet state leads to a quiet state; a quiet state with no command in progress has every
port that is not tx_active still. -/
def Obligations.EveryStepKeepsIdlePortsQuiet : Prop :=
  (∀ s t : State, s.Legal → s.Quiet → step s = .next t → t.Quiet) ∧
  (∀ s : State, s.Quiet → s.cmdPhase = .none → ∀ q ∈ s.ports, q.txActive = false → q.Still)

/-- R406, R405: every step from a state with the index bounds leads to one with the index bounds; in particular no step ever writes
a byte outside the size of its buffer. The bounds of R406 that R61 repeats are kept by `EveryStepKeepsTheStateLegal`. -/
def Obligations.EveryStepKeepsTheIndexBounds : Prop := ∀ s t : State, s.IndexBounds → step s = .next t → t.IndexBounds

/-- Every step keeps the canonical form of memory (log entry 4), so equal memories are equal data in every run. -/
def Obligations.EveryStepKeepsMemoryCanonical : Prop := ∀ s t : State, s.MemoryWf → step s = .next t → t.MemoryWf
end

