-- ==== Sys2Proof/Laws/State.lean ====
section
/-! SUPPORT. What each named update does to each field, by rfl, so that no proof unfolds a record update; and the port a state
holds after an update of one port or of every port. -/

namespace Sys2Proof.Machine


@[simp] theorem State.load_micros (w : Word) (s : State) : (s.load w).micros = s.micros := rfl
@[simp] theorem State.load_schedState (w : Word) (s : State) : (s.load w).schedState = s.schedState := rfl
@[simp] theorem State.load_schedTimer (w : Word) (s : State) : (s.load w).schedTimer = s.schedTimer := rfl
@[simp] theorem State.load_period (w : Word) (s : State) : (s.load w).period = s.period := rfl
@[simp] theorem State.load_breakTime (w : Word) (s : State) : (s.load w).breakTime = s.breakTime := rfl
@[simp] theorem State.load_mabTime (w : Word) (s : State) : (s.load w).mabTime = s.mabTime := rfl
@[simp] theorem State.load_periodReq (w : Word) (s : State) : (s.load w).periodReq = s.periodReq := rfl
@[simp] theorem State.load_slots (w : Word) (s : State) : (s.load w).slots = s.slots := rfl
@[simp] theorem State.load_statsTimer (w : Word) (s : State) : (s.load w).statsTimer = s.statsTimer := rfl
@[simp] theorem State.load_cmdWord (w : Word) (s : State) : (s.load w).cmdWord = w := rfl
@[simp] theorem State.load_arg (w : Word) (s : State) : (s.load w).arg = s.arg := rfl
@[simp] theorem State.load_busy (w : Word) (s : State) : (s.load w).busy = s.busy := rfl
@[simp] theorem State.load_valid (w : Word) (s : State) : (s.load w).valid = false := rfl
@[simp] theorem State.load_ovr (w : Word) (s : State) : (s.load w).ovr = false := rfl
@[simp] theorem State.load_err (w : Word) (s : State) : (s.load w).err = .none := rfl
@[simp] theorem State.load_opc (w : Word) (s : State) : (s.load w).opc = opcodeField w := rfl
@[simp] theorem State.load_result0 (w : Word) (s : State) : (s.load w).result0 = 0#32 := rfl
@[simp] theorem State.load_result1 (w : Word) (s : State) : (s.load w).result1 = 0#32 := rfl
@[simp] theorem State.load_cmdPhase (w : Word) (s : State) : (s.load w).cmdPhase = s.cmdPhase := rfl
@[simp] theorem State.load_cmdT0 (w : Word) (s : State) : (s.load w).cmdT0 = s.cmdT0 := rfl
@[simp] theorem State.load_cmdPos (w : Word) (s : State) : (s.load w).cmdPos = s.cmdPos := rfl
@[simp] theorem State.load_cmdLen (w : Word) (s : State) : (s.load w).cmdLen = s.cmdLen := rfl
@[simp] theorem State.load_pbuf (w : Word) (s : State) : (s.load w).pbuf = s.pbuf := rfl
@[simp] theorem State.load_rbuf (w : Word) (s : State) : (s.load w).rbuf = s.rbuf := rfl
@[simp] theorem State.load_ports (w : Word) (s : State) : (s.load w).ports = s.ports := rfl
@[simp] theorem State.load_busRdata (w : Word) (s : State) : (s.load w).busRdata = s.busRdata := rfl
@[simp] theorem State.load_busErr (w : Word) (s : State) : (s.load w).busErr = s.busErr := rfl
@[simp] theorem State.load_inputs (w : Word) (s : State) : (s.load w).inputs = s.inputs := rfl
@[simp] theorem State.load_resets (w : Word) (s : State) : (s.load w).resets = s.resets := rfl

@[simp] theorem State.complete_micros (e : ErrCode) (v : Bool) (a b : Word) (s : State) : (s.complete e v a b).micros = s.micros := rfl
@[simp] theorem State.complete_schedState (e : ErrCode) (v : Bool) (a b : Word) (s : State) : (s.complete e v a b).schedState = s.schedState := rfl
@[simp] theorem State.complete_schedTimer (e : ErrCode) (v : Bool) (a b : Word) (s : State) : (s.complete e v a b).schedTimer = s.schedTimer := rfl
@[simp] theorem State.complete_period (e : ErrCode) (v : Bool) (a b : Word) (s : State) : (s.complete e v a b).period = s.period := rfl
@[simp] theorem State.complete_breakTime (e : ErrCode) (v : Bool) (a b : Word) (s : State) : (s.complete e v a b).breakTime = s.breakTime := rfl
@[simp] theorem State.complete_mabTime (e : ErrCode) (v : Bool) (a b : Word) (s : State) : (s.complete e v a b).mabTime = s.mabTime := rfl
@[simp] theorem State.complete_periodReq (e : ErrCode) (v : Bool) (a b : Word) (s : State) : (s.complete e v a b).periodReq = s.periodReq := rfl
@[simp] theorem State.complete_slots (e : ErrCode) (v : Bool) (a b : Word) (s : State) : (s.complete e v a b).slots = s.slots := rfl
@[simp] theorem State.complete_statsTimer (e : ErrCode) (v : Bool) (a b : Word) (s : State) : (s.complete e v a b).statsTimer = s.statsTimer := rfl
@[simp] theorem State.complete_cmdWord (e : ErrCode) (v : Bool) (a b : Word) (s : State) : (s.complete e v a b).cmdWord = s.cmdWord := rfl
@[simp] theorem State.complete_arg (e : ErrCode) (v : Bool) (a b : Word) (s : State) : (s.complete e v a b).arg = s.arg := rfl
@[simp] theorem State.complete_busy (e : ErrCode) (v : Bool) (a b : Word) (s : State) : (s.complete e v a b).busy = false := rfl
@[simp] theorem State.complete_valid (e : ErrCode) (v : Bool) (a b : Word) (s : State) : (s.complete e v a b).valid = v := rfl
@[simp] theorem State.complete_ovr (e : ErrCode) (v : Bool) (a b : Word) (s : State) : (s.complete e v a b).ovr = s.ovr := rfl
@[simp] theorem State.complete_err (e : ErrCode) (v : Bool) (a b : Word) (s : State) : (s.complete e v a b).err = e := rfl
@[simp] theorem State.complete_opc (e : ErrCode) (v : Bool) (a b : Word) (s : State) : (s.complete e v a b).opc = s.opc := rfl
@[simp] theorem State.complete_result0 (e : ErrCode) (v : Bool) (a b : Word) (s : State) : (s.complete e v a b).result0 = a := rfl
@[simp] theorem State.complete_result1 (e : ErrCode) (v : Bool) (a b : Word) (s : State) : (s.complete e v a b).result1 = b := rfl
@[simp] theorem State.complete_cmdPhase (e : ErrCode) (v : Bool) (a b : Word) (s : State) : (s.complete e v a b).cmdPhase = .none := rfl
@[simp] theorem State.complete_cmdT0 (e : ErrCode) (v : Bool) (a b : Word) (s : State) : (s.complete e v a b).cmdT0 = s.cmdT0 := rfl
@[simp] theorem State.complete_cmdPos (e : ErrCode) (v : Bool) (a b : Word) (s : State) : (s.complete e v a b).cmdPos = s.cmdPos := rfl
@[simp] theorem State.complete_cmdLen (e : ErrCode) (v : Bool) (a b : Word) (s : State) : (s.complete e v a b).cmdLen = s.cmdLen := rfl
@[simp] theorem State.complete_pbuf (e : ErrCode) (v : Bool) (a b : Word) (s : State) : (s.complete e v a b).pbuf = s.pbuf := rfl
@[simp] theorem State.complete_rbuf (e : ErrCode) (v : Bool) (a b : Word) (s : State) : (s.complete e v a b).rbuf = s.rbuf := rfl
@[simp] theorem State.complete_ports (e : ErrCode) (v : Bool) (a b : Word) (s : State) : (s.complete e v a b).ports = s.ports := rfl
@[simp] theorem State.complete_busRdata (e : ErrCode) (v : Bool) (a b : Word) (s : State) : (s.complete e v a b).busRdata = s.busRdata := rfl
@[simp] theorem State.complete_busErr (e : ErrCode) (v : Bool) (a b : Word) (s : State) : (s.complete e v a b).busErr = s.busErr := rfl
@[simp] theorem State.complete_inputs (e : ErrCode) (v : Bool) (a b : Word) (s : State) : (s.complete e v a b).inputs = s.inputs := rfl
@[simp] theorem State.complete_resets (e : ErrCode) (v : Bool) (a b : Word) (s : State) : (s.complete e v a b).resets = s.resets := rfl

@[simp] theorem State.finish_eq (e : ErrCode) (s : State) : s.finish e = s.complete e false 0#32 0#32 := rfl

@[simp] theorem State.hold_micros (ph : CmdPhase) (s : State) : (s.hold ph).micros = s.micros := rfl
@[simp] theorem State.hold_schedState (ph : CmdPhase) (s : State) : (s.hold ph).schedState = s.schedState := rfl
@[simp] theorem State.hold_schedTimer (ph : CmdPhase) (s : State) : (s.hold ph).schedTimer = s.schedTimer := rfl
@[simp] theorem State.hold_period (ph : CmdPhase) (s : State) : (s.hold ph).period = s.period := rfl
@[simp] theorem State.hold_breakTime (ph : CmdPhase) (s : State) : (s.hold ph).breakTime = s.breakTime := rfl
@[simp] theorem State.hold_mabTime (ph : CmdPhase) (s : State) : (s.hold ph).mabTime = s.mabTime := rfl
@[simp] theorem State.hold_periodReq (ph : CmdPhase) (s : State) : (s.hold ph).periodReq = s.periodReq := rfl
@[simp] theorem State.hold_slots (ph : CmdPhase) (s : State) : (s.hold ph).slots = s.slots := rfl
@[simp] theorem State.hold_statsTimer (ph : CmdPhase) (s : State) : (s.hold ph).statsTimer = s.statsTimer := rfl
@[simp] theorem State.hold_cmdWord (ph : CmdPhase) (s : State) : (s.hold ph).cmdWord = s.cmdWord := rfl
@[simp] theorem State.hold_arg (ph : CmdPhase) (s : State) : (s.hold ph).arg = s.arg := rfl
@[simp] theorem State.hold_busy (ph : CmdPhase) (s : State) : (s.hold ph).busy = true := rfl
@[simp] theorem State.hold_valid (ph : CmdPhase) (s : State) : (s.hold ph).valid = s.valid := rfl
@[simp] theorem State.hold_ovr (ph : CmdPhase) (s : State) : (s.hold ph).ovr = s.ovr := rfl
@[simp] theorem State.hold_err (ph : CmdPhase) (s : State) : (s.hold ph).err = s.err := rfl
@[simp] theorem State.hold_opc (ph : CmdPhase) (s : State) : (s.hold ph).opc = s.opc := rfl
@[simp] theorem State.hold_result0 (ph : CmdPhase) (s : State) : (s.hold ph).result0 = s.result0 := rfl
@[simp] theorem State.hold_result1 (ph : CmdPhase) (s : State) : (s.hold ph).result1 = s.result1 := rfl
@[simp] theorem State.hold_cmdPhase (ph : CmdPhase) (s : State) : (s.hold ph).cmdPhase = ph := rfl
@[simp] theorem State.hold_cmdT0 (ph : CmdPhase) (s : State) : (s.hold ph).cmdT0 = s.cmdT0 := rfl
@[simp] theorem State.hold_cmdPos (ph : CmdPhase) (s : State) : (s.hold ph).cmdPos = s.cmdPos := rfl
@[simp] theorem State.hold_cmdLen (ph : CmdPhase) (s : State) : (s.hold ph).cmdLen = s.cmdLen := rfl
@[simp] theorem State.hold_pbuf (ph : CmdPhase) (s : State) : (s.hold ph).pbuf = s.pbuf := rfl
@[simp] theorem State.hold_rbuf (ph : CmdPhase) (s : State) : (s.hold ph).rbuf = s.rbuf := rfl
@[simp] theorem State.hold_ports (ph : CmdPhase) (s : State) : (s.hold ph).ports = s.ports := rfl
@[simp] theorem State.hold_busRdata (ph : CmdPhase) (s : State) : (s.hold ph).busRdata = s.busRdata := rfl
@[simp] theorem State.hold_busErr (ph : CmdPhase) (s : State) : (s.hold ph).busErr = s.busErr := rfl
@[simp] theorem State.hold_inputs (ph : CmdPhase) (s : State) : (s.hold ph).inputs = s.inputs := rfl
@[simp] theorem State.hold_resets (ph : CmdPhase) (s : State) : (s.hold ph).resets = s.resets := rfl

@[simp] theorem State.updPort_micros (p : Nat) (f : Port → Port) (s : State) : (s.updPort p f).micros = s.micros := rfl
@[simp] theorem State.updPort_schedState (p : Nat) (f : Port → Port) (s : State) : (s.updPort p f).schedState = s.schedState := rfl
@[simp] theorem State.updPort_schedTimer (p : Nat) (f : Port → Port) (s : State) : (s.updPort p f).schedTimer = s.schedTimer := rfl
@[simp] theorem State.updPort_period (p : Nat) (f : Port → Port) (s : State) : (s.updPort p f).period = s.period := rfl
@[simp] theorem State.updPort_breakTime (p : Nat) (f : Port → Port) (s : State) : (s.updPort p f).breakTime = s.breakTime := rfl
@[simp] theorem State.updPort_mabTime (p : Nat) (f : Port → Port) (s : State) : (s.updPort p f).mabTime = s.mabTime := rfl
@[simp] theorem State.updPort_periodReq (p : Nat) (f : Port → Port) (s : State) : (s.updPort p f).periodReq = s.periodReq := rfl
@[simp] theorem State.updPort_slots (p : Nat) (f : Port → Port) (s : State) : (s.updPort p f).slots = s.slots := rfl
@[simp] theorem State.updPort_statsTimer (p : Nat) (f : Port → Port) (s : State) : (s.updPort p f).statsTimer = s.statsTimer := rfl
@[simp] theorem State.updPort_cmdWord (p : Nat) (f : Port → Port) (s : State) : (s.updPort p f).cmdWord = s.cmdWord := rfl
@[simp] theorem State.updPort_arg (p : Nat) (f : Port → Port) (s : State) : (s.updPort p f).arg = s.arg := rfl
@[simp] theorem State.updPort_busy (p : Nat) (f : Port → Port) (s : State) : (s.updPort p f).busy = s.busy := rfl
@[simp] theorem State.updPort_valid (p : Nat) (f : Port → Port) (s : State) : (s.updPort p f).valid = s.valid := rfl
@[simp] theorem State.updPort_ovr (p : Nat) (f : Port → Port) (s : State) : (s.updPort p f).ovr = s.ovr := rfl
@[simp] theorem State.updPort_err (p : Nat) (f : Port → Port) (s : State) : (s.updPort p f).err = s.err := rfl
@[simp] theorem State.updPort_opc (p : Nat) (f : Port → Port) (s : State) : (s.updPort p f).opc = s.opc := rfl
@[simp] theorem State.updPort_result0 (p : Nat) (f : Port → Port) (s : State) : (s.updPort p f).result0 = s.result0 := rfl
@[simp] theorem State.updPort_result1 (p : Nat) (f : Port → Port) (s : State) : (s.updPort p f).result1 = s.result1 := rfl
@[simp] theorem State.updPort_cmdPhase (p : Nat) (f : Port → Port) (s : State) : (s.updPort p f).cmdPhase = s.cmdPhase := rfl
@[simp] theorem State.updPort_cmdT0 (p : Nat) (f : Port → Port) (s : State) : (s.updPort p f).cmdT0 = s.cmdT0 := rfl
@[simp] theorem State.updPort_cmdPos (p : Nat) (f : Port → Port) (s : State) : (s.updPort p f).cmdPos = s.cmdPos := rfl
@[simp] theorem State.updPort_cmdLen (p : Nat) (f : Port → Port) (s : State) : (s.updPort p f).cmdLen = s.cmdLen := rfl
@[simp] theorem State.updPort_pbuf (p : Nat) (f : Port → Port) (s : State) : (s.updPort p f).pbuf = s.pbuf := rfl
@[simp] theorem State.updPort_rbuf (p : Nat) (f : Port → Port) (s : State) : (s.updPort p f).rbuf = s.rbuf := rfl
@[simp] theorem State.updPort_ports (p : Nat) (f : Port → Port) (s : State) : (s.updPort p f).ports = s.ports.modify p f := rfl
@[simp] theorem State.updPort_busRdata (p : Nat) (f : Port → Port) (s : State) : (s.updPort p f).busRdata = s.busRdata := rfl
@[simp] theorem State.updPort_busErr (p : Nat) (f : Port → Port) (s : State) : (s.updPort p f).busErr = s.busErr := rfl
@[simp] theorem State.updPort_inputs (p : Nat) (f : Port → Port) (s : State) : (s.updPort p f).inputs = s.inputs := rfl
@[simp] theorem State.updPort_resets (p : Nat) (f : Port → Port) (s : State) : (s.updPort p f).resets = s.resets := rfl

@[simp] theorem State.eachPort_micros (f : Port → Port) (s : State) : (s.eachPort f).micros = s.micros := rfl
@[simp] theorem State.eachPort_schedState (f : Port → Port) (s : State) : (s.eachPort f).schedState = s.schedState := rfl
@[simp] theorem State.eachPort_schedTimer (f : Port → Port) (s : State) : (s.eachPort f).schedTimer = s.schedTimer := rfl
@[simp] theorem State.eachPort_period (f : Port → Port) (s : State) : (s.eachPort f).period = s.period := rfl
@[simp] theorem State.eachPort_breakTime (f : Port → Port) (s : State) : (s.eachPort f).breakTime = s.breakTime := rfl
@[simp] theorem State.eachPort_mabTime (f : Port → Port) (s : State) : (s.eachPort f).mabTime = s.mabTime := rfl
@[simp] theorem State.eachPort_periodReq (f : Port → Port) (s : State) : (s.eachPort f).periodReq = s.periodReq := rfl
@[simp] theorem State.eachPort_slots (f : Port → Port) (s : State) : (s.eachPort f).slots = s.slots := rfl
@[simp] theorem State.eachPort_statsTimer (f : Port → Port) (s : State) : (s.eachPort f).statsTimer = s.statsTimer := rfl
@[simp] theorem State.eachPort_cmdWord (f : Port → Port) (s : State) : (s.eachPort f).cmdWord = s.cmdWord := rfl
@[simp] theorem State.eachPort_arg (f : Port → Port) (s : State) : (s.eachPort f).arg = s.arg := rfl
@[simp] theorem State.eachPort_busy (f : Port → Port) (s : State) : (s.eachPort f).busy = s.busy := rfl
@[simp] theorem State.eachPort_valid (f : Port → Port) (s : State) : (s.eachPort f).valid = s.valid := rfl
@[simp] theorem State.eachPort_ovr (f : Port → Port) (s : State) : (s.eachPort f).ovr = s.ovr := rfl
@[simp] theorem State.eachPort_err (f : Port → Port) (s : State) : (s.eachPort f).err = s.err := rfl
@[simp] theorem State.eachPort_opc (f : Port → Port) (s : State) : (s.eachPort f).opc = s.opc := rfl
@[simp] theorem State.eachPort_result0 (f : Port → Port) (s : State) : (s.eachPort f).result0 = s.result0 := rfl
@[simp] theorem State.eachPort_result1 (f : Port → Port) (s : State) : (s.eachPort f).result1 = s.result1 := rfl
@[simp] theorem State.eachPort_cmdPhase (f : Port → Port) (s : State) : (s.eachPort f).cmdPhase = s.cmdPhase := rfl
@[simp] theorem State.eachPort_cmdT0 (f : Port → Port) (s : State) : (s.eachPort f).cmdT0 = s.cmdT0 := rfl
@[simp] theorem State.eachPort_cmdPos (f : Port → Port) (s : State) : (s.eachPort f).cmdPos = s.cmdPos := rfl
@[simp] theorem State.eachPort_cmdLen (f : Port → Port) (s : State) : (s.eachPort f).cmdLen = s.cmdLen := rfl
@[simp] theorem State.eachPort_pbuf (f : Port → Port) (s : State) : (s.eachPort f).pbuf = s.pbuf := rfl
@[simp] theorem State.eachPort_rbuf (f : Port → Port) (s : State) : (s.eachPort f).rbuf = s.rbuf := rfl
@[simp] theorem State.eachPort_ports (f : Port → Port) (s : State) : (s.eachPort f).ports = s.ports.map f := rfl
@[simp] theorem State.eachPort_busRdata (f : Port → Port) (s : State) : (s.eachPort f).busRdata = s.busRdata := rfl
@[simp] theorem State.eachPort_busErr (f : Port → Port) (s : State) : (s.eachPort f).busErr = s.busErr := rfl
@[simp] theorem State.eachPort_inputs (f : Port → Port) (s : State) : (s.eachPort f).inputs = s.inputs := rfl
@[simp] theorem State.eachPort_resets (f : Port → Port) (s : State) : (s.eachPort f).resets = s.resets := rfl

@[simp] theorem State.storePbuf_micros (i : Nat) (bs : List Byte) (s : State) : (s.storePbuf i bs).micros = s.micros := rfl
@[simp] theorem State.storePbuf_schedState (i : Nat) (bs : List Byte) (s : State) : (s.storePbuf i bs).schedState = s.schedState := rfl
@[simp] theorem State.storePbuf_schedTimer (i : Nat) (bs : List Byte) (s : State) : (s.storePbuf i bs).schedTimer = s.schedTimer := rfl
@[simp] theorem State.storePbuf_period (i : Nat) (bs : List Byte) (s : State) : (s.storePbuf i bs).period = s.period := rfl
@[simp] theorem State.storePbuf_breakTime (i : Nat) (bs : List Byte) (s : State) : (s.storePbuf i bs).breakTime = s.breakTime := rfl
@[simp] theorem State.storePbuf_mabTime (i : Nat) (bs : List Byte) (s : State) : (s.storePbuf i bs).mabTime = s.mabTime := rfl
@[simp] theorem State.storePbuf_periodReq (i : Nat) (bs : List Byte) (s : State) : (s.storePbuf i bs).periodReq = s.periodReq := rfl
@[simp] theorem State.storePbuf_slots (i : Nat) (bs : List Byte) (s : State) : (s.storePbuf i bs).slots = s.slots := rfl
@[simp] theorem State.storePbuf_statsTimer (i : Nat) (bs : List Byte) (s : State) : (s.storePbuf i bs).statsTimer = s.statsTimer := rfl
@[simp] theorem State.storePbuf_cmdWord (i : Nat) (bs : List Byte) (s : State) : (s.storePbuf i bs).cmdWord = s.cmdWord := rfl
@[simp] theorem State.storePbuf_arg (i : Nat) (bs : List Byte) (s : State) : (s.storePbuf i bs).arg = s.arg := rfl
@[simp] theorem State.storePbuf_busy (i : Nat) (bs : List Byte) (s : State) : (s.storePbuf i bs).busy = s.busy := rfl
@[simp] theorem State.storePbuf_valid (i : Nat) (bs : List Byte) (s : State) : (s.storePbuf i bs).valid = s.valid := rfl
@[simp] theorem State.storePbuf_ovr (i : Nat) (bs : List Byte) (s : State) : (s.storePbuf i bs).ovr = s.ovr := rfl
@[simp] theorem State.storePbuf_err (i : Nat) (bs : List Byte) (s : State) : (s.storePbuf i bs).err = s.err := rfl
@[simp] theorem State.storePbuf_opc (i : Nat) (bs : List Byte) (s : State) : (s.storePbuf i bs).opc = s.opc := rfl
@[simp] theorem State.storePbuf_result0 (i : Nat) (bs : List Byte) (s : State) : (s.storePbuf i bs).result0 = s.result0 := rfl
@[simp] theorem State.storePbuf_result1 (i : Nat) (bs : List Byte) (s : State) : (s.storePbuf i bs).result1 = s.result1 := rfl
@[simp] theorem State.storePbuf_cmdPhase (i : Nat) (bs : List Byte) (s : State) : (s.storePbuf i bs).cmdPhase = s.cmdPhase := rfl
@[simp] theorem State.storePbuf_cmdT0 (i : Nat) (bs : List Byte) (s : State) : (s.storePbuf i bs).cmdT0 = s.cmdT0 := rfl
@[simp] theorem State.storePbuf_cmdPos (i : Nat) (bs : List Byte) (s : State) : (s.storePbuf i bs).cmdPos = s.cmdPos := rfl
@[simp] theorem State.storePbuf_cmdLen (i : Nat) (bs : List Byte) (s : State) : (s.storePbuf i bs).cmdLen = s.cmdLen := rfl
@[simp] theorem State.storePbuf_pbuf (i : Nat) (bs : List Byte) (s : State) : (s.storePbuf i bs).pbuf = s.pbuf.store i bs := rfl
@[simp] theorem State.storePbuf_rbuf (i : Nat) (bs : List Byte) (s : State) : (s.storePbuf i bs).rbuf = s.rbuf := rfl
@[simp] theorem State.storePbuf_ports (i : Nat) (bs : List Byte) (s : State) : (s.storePbuf i bs).ports = s.ports := rfl
@[simp] theorem State.storePbuf_busRdata (i : Nat) (bs : List Byte) (s : State) : (s.storePbuf i bs).busRdata = s.busRdata := rfl
@[simp] theorem State.storePbuf_busErr (i : Nat) (bs : List Byte) (s : State) : (s.storePbuf i bs).busErr = s.busErr := rfl
@[simp] theorem State.storePbuf_inputs (i : Nat) (bs : List Byte) (s : State) : (s.storePbuf i bs).inputs = s.inputs := rfl
@[simp] theorem State.storePbuf_resets (i : Nat) (bs : List Byte) (s : State) : (s.storePbuf i bs).resets = s.resets := rfl

@[simp] theorem State.storeRbuf_micros (i : Nat) (bs : List Byte) (s : State) : (s.storeRbuf i bs).micros = s.micros := rfl
@[simp] theorem State.storeRbuf_schedState (i : Nat) (bs : List Byte) (s : State) : (s.storeRbuf i bs).schedState = s.schedState := rfl
@[simp] theorem State.storeRbuf_schedTimer (i : Nat) (bs : List Byte) (s : State) : (s.storeRbuf i bs).schedTimer = s.schedTimer := rfl
@[simp] theorem State.storeRbuf_period (i : Nat) (bs : List Byte) (s : State) : (s.storeRbuf i bs).period = s.period := rfl
@[simp] theorem State.storeRbuf_breakTime (i : Nat) (bs : List Byte) (s : State) : (s.storeRbuf i bs).breakTime = s.breakTime := rfl
@[simp] theorem State.storeRbuf_mabTime (i : Nat) (bs : List Byte) (s : State) : (s.storeRbuf i bs).mabTime = s.mabTime := rfl
@[simp] theorem State.storeRbuf_periodReq (i : Nat) (bs : List Byte) (s : State) : (s.storeRbuf i bs).periodReq = s.periodReq := rfl
@[simp] theorem State.storeRbuf_slots (i : Nat) (bs : List Byte) (s : State) : (s.storeRbuf i bs).slots = s.slots := rfl
@[simp] theorem State.storeRbuf_statsTimer (i : Nat) (bs : List Byte) (s : State) : (s.storeRbuf i bs).statsTimer = s.statsTimer := rfl
@[simp] theorem State.storeRbuf_cmdWord (i : Nat) (bs : List Byte) (s : State) : (s.storeRbuf i bs).cmdWord = s.cmdWord := rfl
@[simp] theorem State.storeRbuf_arg (i : Nat) (bs : List Byte) (s : State) : (s.storeRbuf i bs).arg = s.arg := rfl
@[simp] theorem State.storeRbuf_busy (i : Nat) (bs : List Byte) (s : State) : (s.storeRbuf i bs).busy = s.busy := rfl
@[simp] theorem State.storeRbuf_valid (i : Nat) (bs : List Byte) (s : State) : (s.storeRbuf i bs).valid = s.valid := rfl
@[simp] theorem State.storeRbuf_ovr (i : Nat) (bs : List Byte) (s : State) : (s.storeRbuf i bs).ovr = s.ovr := rfl
@[simp] theorem State.storeRbuf_err (i : Nat) (bs : List Byte) (s : State) : (s.storeRbuf i bs).err = s.err := rfl
@[simp] theorem State.storeRbuf_opc (i : Nat) (bs : List Byte) (s : State) : (s.storeRbuf i bs).opc = s.opc := rfl
@[simp] theorem State.storeRbuf_result0 (i : Nat) (bs : List Byte) (s : State) : (s.storeRbuf i bs).result0 = s.result0 := rfl
@[simp] theorem State.storeRbuf_result1 (i : Nat) (bs : List Byte) (s : State) : (s.storeRbuf i bs).result1 = s.result1 := rfl
@[simp] theorem State.storeRbuf_cmdPhase (i : Nat) (bs : List Byte) (s : State) : (s.storeRbuf i bs).cmdPhase = s.cmdPhase := rfl
@[simp] theorem State.storeRbuf_cmdT0 (i : Nat) (bs : List Byte) (s : State) : (s.storeRbuf i bs).cmdT0 = s.cmdT0 := rfl
@[simp] theorem State.storeRbuf_cmdPos (i : Nat) (bs : List Byte) (s : State) : (s.storeRbuf i bs).cmdPos = s.cmdPos := rfl
@[simp] theorem State.storeRbuf_cmdLen (i : Nat) (bs : List Byte) (s : State) : (s.storeRbuf i bs).cmdLen = s.cmdLen := rfl
@[simp] theorem State.storeRbuf_pbuf (i : Nat) (bs : List Byte) (s : State) : (s.storeRbuf i bs).pbuf = s.pbuf := rfl
@[simp] theorem State.storeRbuf_rbuf (i : Nat) (bs : List Byte) (s : State) : (s.storeRbuf i bs).rbuf = s.rbuf.store i bs := rfl
@[simp] theorem State.storeRbuf_ports (i : Nat) (bs : List Byte) (s : State) : (s.storeRbuf i bs).ports = s.ports := rfl
@[simp] theorem State.storeRbuf_busRdata (i : Nat) (bs : List Byte) (s : State) : (s.storeRbuf i bs).busRdata = s.busRdata := rfl
@[simp] theorem State.storeRbuf_busErr (i : Nat) (bs : List Byte) (s : State) : (s.storeRbuf i bs).busErr = s.busErr := rfl
@[simp] theorem State.storeRbuf_inputs (i : Nat) (bs : List Byte) (s : State) : (s.storeRbuf i bs).inputs = s.inputs := rfl
@[simp] theorem State.storeRbuf_resets (i : Nat) (bs : List Byte) (s : State) : (s.storeRbuf i bs).resets = s.resets := rfl

@[simp] theorem State.recomputePeriod_micros (s : State) : (s.recomputePeriod).micros = s.micros := rfl
@[simp] theorem State.recomputePeriod_schedState (s : State) : (s.recomputePeriod).schedState = s.schedState := rfl
@[simp] theorem State.recomputePeriod_schedTimer (s : State) : (s.recomputePeriod).schedTimer = s.schedTimer := rfl
@[simp] theorem State.recomputePeriod_period (s : State) : (s.recomputePeriod).period = BitVec.ofNat 32 s.periodUs := rfl
@[simp] theorem State.recomputePeriod_breakTime (s : State) : (s.recomputePeriod).breakTime = s.breakTime := rfl
@[simp] theorem State.recomputePeriod_mabTime (s : State) : (s.recomputePeriod).mabTime = s.mabTime := rfl
@[simp] theorem State.recomputePeriod_periodReq (s : State) : (s.recomputePeriod).periodReq = s.periodReq := rfl
@[simp] theorem State.recomputePeriod_slots (s : State) : (s.recomputePeriod).slots = s.slots := rfl
@[simp] theorem State.recomputePeriod_statsTimer (s : State) : (s.recomputePeriod).statsTimer = s.statsTimer := rfl
@[simp] theorem State.recomputePeriod_cmdWord (s : State) : (s.recomputePeriod).cmdWord = s.cmdWord := rfl
@[simp] theorem State.recomputePeriod_arg (s : State) : (s.recomputePeriod).arg = s.arg := rfl
@[simp] theorem State.recomputePeriod_busy (s : State) : (s.recomputePeriod).busy = s.busy := rfl
@[simp] theorem State.recomputePeriod_valid (s : State) : (s.recomputePeriod).valid = s.valid := rfl
@[simp] theorem State.recomputePeriod_ovr (s : State) : (s.recomputePeriod).ovr = s.ovr := rfl
@[simp] theorem State.recomputePeriod_err (s : State) : (s.recomputePeriod).err = s.err := rfl
@[simp] theorem State.recomputePeriod_opc (s : State) : (s.recomputePeriod).opc = s.opc := rfl
@[simp] theorem State.recomputePeriod_result0 (s : State) : (s.recomputePeriod).result0 = s.result0 := rfl
@[simp] theorem State.recomputePeriod_result1 (s : State) : (s.recomputePeriod).result1 = s.result1 := rfl
@[simp] theorem State.recomputePeriod_cmdPhase (s : State) : (s.recomputePeriod).cmdPhase = s.cmdPhase := rfl
@[simp] theorem State.recomputePeriod_cmdT0 (s : State) : (s.recomputePeriod).cmdT0 = s.cmdT0 := rfl
@[simp] theorem State.recomputePeriod_cmdPos (s : State) : (s.recomputePeriod).cmdPos = s.cmdPos := rfl
@[simp] theorem State.recomputePeriod_cmdLen (s : State) : (s.recomputePeriod).cmdLen = s.cmdLen := rfl
@[simp] theorem State.recomputePeriod_pbuf (s : State) : (s.recomputePeriod).pbuf = s.pbuf := rfl
@[simp] theorem State.recomputePeriod_rbuf (s : State) : (s.recomputePeriod).rbuf = s.rbuf := rfl
@[simp] theorem State.recomputePeriod_ports (s : State) : (s.recomputePeriod).ports = s.ports := rfl
@[simp] theorem State.recomputePeriod_busRdata (s : State) : (s.recomputePeriod).busRdata = s.busRdata := rfl
@[simp] theorem State.recomputePeriod_busErr (s : State) : (s.recomputePeriod).busErr = s.busErr := rfl
@[simp] theorem State.recomputePeriod_inputs (s : State) : (s.recomputePeriod).inputs = s.inputs := rfl
@[simp] theorem State.recomputePeriod_resets (s : State) : (s.recomputePeriod).resets = s.resets := rfl

@[simp] theorem Port.emit_dir (e : WireEvent) (q : Port) : (q.emit e).dir = q.dir := rfl
@[simp] theorem Port.emit_enableData (e : WireEvent) (q : Port) : (q.emit e).enableData = q.enableData := rfl
@[simp] theorem Port.emit_txset (e : WireEvent) (q : Port) : (q.emit e).txset = q.txset := rfl
@[simp] theorem Port.emit_rxState (e : WireEvent) (q : Port) : (q.emit e).rxState = q.rxState := rfl
@[simp] theorem Port.emit_rxQuiet (e : WireEvent) (q : Port) : (q.emit e).rxQuiet = q.rxQuiet := rfl
@[simp] theorem Port.emit_rxQuietArmed (e : WireEvent) (q : Port) : (q.emit e).rxQuietArmed = q.rxQuietArmed := rfl
@[simp] theorem Port.emit_dmxRing (e : WireEvent) (q : Port) : (q.emit e).dmxRing = q.dmxRing := rfl
@[simp] theorem Port.emit_dmxHead (e : WireEvent) (q : Port) : (q.emit e).dmxHead = q.dmxHead := rfl
@[simp] theorem Port.emit_dmxTail (e : WireEvent) (q : Port) : (q.emit e).dmxTail = q.dmxTail := rfl
@[simp] theorem Port.emit_rdmRing (e : WireEvent) (q : Port) : (q.emit e).rdmRing = q.rdmRing := rfl
@[simp] theorem Port.emit_rdmHead (e : WireEvent) (q : Port) : (q.emit e).rdmHead = q.rdmHead := rfl
@[simp] theorem Port.emit_rdmTail (e : WireEvent) (q : Port) : (q.emit e).rdmTail = q.rdmTail := rfl
@[simp] theorem Port.emit_rxFrames (e : WireEvent) (q : Port) : (q.emit e).rxFrames = q.rxFrames := rfl
@[simp] theorem Port.emit_rxFramesPrev (e : WireEvent) (q : Port) : (q.emit e).rxFramesPrev = q.rxFramesPrev := rfl
@[simp] theorem Port.emit_ups (e : WireEvent) (q : Port) : (q.emit e).ups = q.ups := rfl
@[simp] theorem Port.emit_rxDoneTs (e : WireEvent) (q : Port) : (q.emit e).rxDoneTs = q.rxDoneTs := rfl
@[simp] theorem Port.emit_lastSendTs (e : WireEvent) (q : Port) : (q.emit e).lastSendTs = q.lastSendTs := rfl
@[simp] theorem Port.emit_tn (e : WireEvent) (q : Port) : (q.emit e).tn = q.tn := rfl
@[simp] theorem Port.emit_txBuf (e : WireEvent) (q : Port) : (q.emit e).txBuf = q.txBuf := rfl
@[simp] theorem Port.emit_txWr (e : WireEvent) (q : Port) : (q.emit e).txWr = q.txWr := rfl
@[simp] theorem Port.emit_txRd (e : WireEvent) (q : Port) : (q.emit e).txRd = q.txRd := rfl
@[simp] theorem Port.emit_curLen (e : WireEvent) (q : Port) : (q.emit e).curLen = q.curLen := rfl
@[simp] theorem Port.emit_stgValid (e : WireEvent) (q : Port) : (q.emit e).stgValid = q.stgValid := rfl
@[simp] theorem Port.emit_stgSlot (e : WireEvent) (q : Port) : (q.emit e).stgSlot = q.stgSlot := rfl
@[simp] theorem Port.emit_stgLen (e : WireEvent) (q : Port) : (q.emit e).stgLen = q.stgLen := rfl
@[simp] theorem Port.emit_dmaBusy (e : WireEvent) (q : Port) : (q.emit e).dmaBusy = q.dmaBusy := rfl
@[simp] theorem Port.emit_dmaSlot (e : WireEvent) (q : Port) : (q.emit e).dmaSlot = q.dmaSlot := rfl
@[simp] theorem Port.emit_dmaPos (e : WireEvent) (q : Port) : (q.emit e).dmaPos = q.dmaPos := rfl
@[simp] theorem Port.emit_dmaLen (e : WireEvent) (q : Port) : (q.emit e).dmaLen = q.dmaLen := rfl
@[simp] theorem Port.emit_thr (e : WireEvent) (q : Port) : (q.emit e).thr = q.thr := rfl
@[simp] theorem Port.emit_thrFull (e : WireEvent) (q : Port) : (q.emit e).thrFull = q.thrFull := rfl
@[simp] theorem Port.emit_tsr (e : WireEvent) (q : Port) : (q.emit e).tsr = q.tsr := rfl
@[simp] theorem Port.emit_tsrBusy (e : WireEvent) (q : Port) : (q.emit e).tsrBusy = q.tsrBusy := rfl
@[simp] theorem Port.emit_tsrRem (e : WireEvent) (q : Port) : (q.emit e).tsrRem = q.tsrRem := rfl
@[simp] theorem Port.emit_brk (e : WireEvent) (q : Port) : (q.emit e).brk = q.brk := rfl
@[simp] theorem Port.emit_wire (e : WireEvent) (q : Port) : (q.emit e).wire = q.wire ++ [e] := rfl

@[simp] theorem Port.loadThr_dir (v : Byte) (q : Port) : (q.loadThr v).dir = q.dir := rfl
@[simp] theorem Port.loadThr_enableData (v : Byte) (q : Port) : (q.loadThr v).enableData = q.enableData := rfl
@[simp] theorem Port.loadThr_txset (v : Byte) (q : Port) : (q.loadThr v).txset = q.txset := rfl
@[simp] theorem Port.loadThr_rxState (v : Byte) (q : Port) : (q.loadThr v).rxState = q.rxState := rfl
@[simp] theorem Port.loadThr_rxQuiet (v : Byte) (q : Port) : (q.loadThr v).rxQuiet = q.rxQuiet := rfl
@[simp] theorem Port.loadThr_rxQuietArmed (v : Byte) (q : Port) : (q.loadThr v).rxQuietArmed = q.rxQuietArmed := rfl
@[simp] theorem Port.loadThr_dmxRing (v : Byte) (q : Port) : (q.loadThr v).dmxRing = q.dmxRing := rfl
@[simp] theorem Port.loadThr_dmxHead (v : Byte) (q : Port) : (q.loadThr v).dmxHead = q.dmxHead := rfl
@[simp] theorem Port.loadThr_dmxTail (v : Byte) (q : Port) : (q.loadThr v).dmxTail = q.dmxTail := rfl
@[simp] theorem Port.loadThr_rdmRing (v : Byte) (q : Port) : (q.loadThr v).rdmRing = q.rdmRing := rfl
@[simp] theorem Port.loadThr_rdmHead (v : Byte) (q : Port) : (q.loadThr v).rdmHead = q.rdmHead := rfl
@[simp] theorem Port.loadThr_rdmTail (v : Byte) (q : Port) : (q.loadThr v).rdmTail = q.rdmTail := rfl
@[simp] theorem Port.loadThr_rxFrames (v : Byte) (q : Port) : (q.loadThr v).rxFrames = q.rxFrames := rfl
@[simp] theorem Port.loadThr_rxFramesPrev (v : Byte) (q : Port) : (q.loadThr v).rxFramesPrev = q.rxFramesPrev := rfl
@[simp] theorem Port.loadThr_ups (v : Byte) (q : Port) : (q.loadThr v).ups = q.ups := rfl
@[simp] theorem Port.loadThr_rxDoneTs (v : Byte) (q : Port) : (q.loadThr v).rxDoneTs = q.rxDoneTs := rfl
@[simp] theorem Port.loadThr_lastSendTs (v : Byte) (q : Port) : (q.loadThr v).lastSendTs = q.lastSendTs := rfl
@[simp] theorem Port.loadThr_tn (v : Byte) (q : Port) : (q.loadThr v).tn = q.tn := rfl
@[simp] theorem Port.loadThr_txBuf (v : Byte) (q : Port) : (q.loadThr v).txBuf = q.txBuf := rfl
@[simp] theorem Port.loadThr_txWr (v : Byte) (q : Port) : (q.loadThr v).txWr = q.txWr := rfl
@[simp] theorem Port.loadThr_txRd (v : Byte) (q : Port) : (q.loadThr v).txRd = q.txRd := rfl
@[simp] theorem Port.loadThr_curLen (v : Byte) (q : Port) : (q.loadThr v).curLen = q.curLen := rfl
@[simp] theorem Port.loadThr_stgValid (v : Byte) (q : Port) : (q.loadThr v).stgValid = q.stgValid := rfl
@[simp] theorem Port.loadThr_stgSlot (v : Byte) (q : Port) : (q.loadThr v).stgSlot = q.stgSlot := rfl
@[simp] theorem Port.loadThr_stgLen (v : Byte) (q : Port) : (q.loadThr v).stgLen = q.stgLen := rfl
@[simp] theorem Port.loadThr_dmaBusy (v : Byte) (q : Port) : (q.loadThr v).dmaBusy = q.dmaBusy := rfl
@[simp] theorem Port.loadThr_dmaSlot (v : Byte) (q : Port) : (q.loadThr v).dmaSlot = q.dmaSlot := rfl
@[simp] theorem Port.loadThr_dmaPos (v : Byte) (q : Port) : (q.loadThr v).dmaPos = q.dmaPos := rfl
@[simp] theorem Port.loadThr_dmaLen (v : Byte) (q : Port) : (q.loadThr v).dmaLen = q.dmaLen := rfl
@[simp] theorem Port.loadThr_thr (v : Byte) (q : Port) : (q.loadThr v).thr = v := rfl
@[simp] theorem Port.loadThr_thrFull (v : Byte) (q : Port) : (q.loadThr v).thrFull = true := rfl
@[simp] theorem Port.loadThr_tsr (v : Byte) (q : Port) : (q.loadThr v).tsr = q.tsr := rfl
@[simp] theorem Port.loadThr_tsrBusy (v : Byte) (q : Port) : (q.loadThr v).tsrBusy = q.tsrBusy := rfl
@[simp] theorem Port.loadThr_tsrRem (v : Byte) (q : Port) : (q.loadThr v).tsrRem = q.tsrRem := rfl
@[simp] theorem Port.loadThr_brk (v : Byte) (q : Port) : (q.loadThr v).brk = q.brk := rfl
@[simp] theorem Port.loadThr_wire (v : Byte) (q : Port) : (q.loadThr v).wire = q.wire := rfl

@[simp] theorem Port.stopReceive_dir (q : Port) : (q.stopReceive).dir = q.dir := rfl
@[simp] theorem Port.stopReceive_enableData (q : Port) : (q.stopReceive).enableData = q.enableData := rfl
@[simp] theorem Port.stopReceive_txset (q : Port) : (q.stopReceive).txset = q.txset := rfl
@[simp] theorem Port.stopReceive_rxState (q : Port) : (q.stopReceive).rxState = .idle := rfl
@[simp] theorem Port.stopReceive_rxQuiet (q : Port) : (q.stopReceive).rxQuiet = q.rxQuiet := rfl
@[simp] theorem Port.stopReceive_rxQuietArmed (q : Port) : (q.stopReceive).rxQuietArmed = false := rfl
@[simp] theorem Port.stopReceive_dmxRing (q : Port) : (q.stopReceive).dmxRing = q.dmxRing := rfl
@[simp] theorem Port.stopReceive_dmxHead (q : Port) : (q.stopReceive).dmxHead = q.dmxHead := rfl
@[simp] theorem Port.stopReceive_dmxTail (q : Port) : (q.stopReceive).dmxTail = q.dmxTail := rfl
@[simp] theorem Port.stopReceive_rdmRing (q : Port) : (q.stopReceive).rdmRing = q.rdmRing := rfl
@[simp] theorem Port.stopReceive_rdmHead (q : Port) : (q.stopReceive).rdmHead = q.rdmHead := rfl
@[simp] theorem Port.stopReceive_rdmTail (q : Port) : (q.stopReceive).rdmTail = q.rdmTail := rfl
@[simp] theorem Port.stopReceive_rxFrames (q : Port) : (q.stopReceive).rxFrames = q.rxFrames := rfl
@[simp] theorem Port.stopReceive_rxFramesPrev (q : Port) : (q.stopReceive).rxFramesPrev = q.rxFramesPrev := rfl
@[simp] theorem Port.stopReceive_ups (q : Port) : (q.stopReceive).ups = q.ups := rfl
@[simp] theorem Port.stopReceive_rxDoneTs (q : Port) : (q.stopReceive).rxDoneTs = q.rxDoneTs := rfl
@[simp] theorem Port.stopReceive_lastSendTs (q : Port) : (q.stopReceive).lastSendTs = q.lastSendTs := rfl
@[simp] theorem Port.stopReceive_tn (q : Port) : (q.stopReceive).tn = q.tn := rfl
@[simp] theorem Port.stopReceive_txBuf (q : Port) : (q.stopReceive).txBuf = q.txBuf := rfl
@[simp] theorem Port.stopReceive_txWr (q : Port) : (q.stopReceive).txWr = q.txWr := rfl
@[simp] theorem Port.stopReceive_txRd (q : Port) : (q.stopReceive).txRd = q.txRd := rfl
@[simp] theorem Port.stopReceive_curLen (q : Port) : (q.stopReceive).curLen = q.curLen := rfl
@[simp] theorem Port.stopReceive_stgValid (q : Port) : (q.stopReceive).stgValid = q.stgValid := rfl
@[simp] theorem Port.stopReceive_stgSlot (q : Port) : (q.stopReceive).stgSlot = q.stgSlot := rfl
@[simp] theorem Port.stopReceive_stgLen (q : Port) : (q.stopReceive).stgLen = q.stgLen := rfl
@[simp] theorem Port.stopReceive_dmaBusy (q : Port) : (q.stopReceive).dmaBusy = q.dmaBusy := rfl
@[simp] theorem Port.stopReceive_dmaSlot (q : Port) : (q.stopReceive).dmaSlot = q.dmaSlot := rfl
@[simp] theorem Port.stopReceive_dmaPos (q : Port) : (q.stopReceive).dmaPos = q.dmaPos := rfl
@[simp] theorem Port.stopReceive_dmaLen (q : Port) : (q.stopReceive).dmaLen = q.dmaLen := rfl
@[simp] theorem Port.stopReceive_thr (q : Port) : (q.stopReceive).thr = q.thr := rfl
@[simp] theorem Port.stopReceive_thrFull (q : Port) : (q.stopReceive).thrFull = q.thrFull := rfl
@[simp] theorem Port.stopReceive_tsr (q : Port) : (q.stopReceive).tsr = q.tsr := rfl
@[simp] theorem Port.stopReceive_tsrBusy (q : Port) : (q.stopReceive).tsrBusy = q.tsrBusy := rfl
@[simp] theorem Port.stopReceive_tsrRem (q : Port) : (q.stopReceive).tsrRem = q.tsrRem := rfl
@[simp] theorem Port.stopReceive_brk (q : Port) : (q.stopReceive).brk = q.brk := rfl
@[simp] theorem Port.stopReceive_wire (q : Port) : (q.stopReceive).wire = q.wire := rfl

@[simp] theorem Port.setDmxCur_dir (d : DmxRecord) (q : Port) : (q.setDmxCur d).dir = q.dir := rfl
@[simp] theorem Port.setDmxCur_enableData (d : DmxRecord) (q : Port) : (q.setDmxCur d).enableData = q.enableData := rfl
@[simp] theorem Port.setDmxCur_txset (d : DmxRecord) (q : Port) : (q.setDmxCur d).txset = q.txset := rfl
@[simp] theorem Port.setDmxCur_rxState (d : DmxRecord) (q : Port) : (q.setDmxCur d).rxState = q.rxState := rfl
@[simp] theorem Port.setDmxCur_rxQuiet (d : DmxRecord) (q : Port) : (q.setDmxCur d).rxQuiet = q.rxQuiet := rfl
@[simp] theorem Port.setDmxCur_rxQuietArmed (d : DmxRecord) (q : Port) : (q.setDmxCur d).rxQuietArmed = q.rxQuietArmed := rfl
@[simp] theorem Port.setDmxCur_dmxRing (d : DmxRecord) (q : Port) : (q.setDmxCur d).dmxRing = q.dmxRing.put q.dmxHead d := rfl
@[simp] theorem Port.setDmxCur_dmxHead (d : DmxRecord) (q : Port) : (q.setDmxCur d).dmxHead = q.dmxHead := rfl
@[simp] theorem Port.setDmxCur_dmxTail (d : DmxRecord) (q : Port) : (q.setDmxCur d).dmxTail = q.dmxTail := rfl
@[simp] theorem Port.setDmxCur_rdmRing (d : DmxRecord) (q : Port) : (q.setDmxCur d).rdmRing = q.rdmRing := rfl
@[simp] theorem Port.setDmxCur_rdmHead (d : DmxRecord) (q : Port) : (q.setDmxCur d).rdmHead = q.rdmHead := rfl
@[simp] theorem Port.setDmxCur_rdmTail (d : DmxRecord) (q : Port) : (q.setDmxCur d).rdmTail = q.rdmTail := rfl
@[simp] theorem Port.setDmxCur_rxFrames (d : DmxRecord) (q : Port) : (q.setDmxCur d).rxFrames = q.rxFrames := rfl
@[simp] theorem Port.setDmxCur_rxFramesPrev (d : DmxRecord) (q : Port) : (q.setDmxCur d).rxFramesPrev = q.rxFramesPrev := rfl
@[simp] theorem Port.setDmxCur_ups (d : DmxRecord) (q : Port) : (q.setDmxCur d).ups = q.ups := rfl
@[simp] theorem Port.setDmxCur_rxDoneTs (d : DmxRecord) (q : Port) : (q.setDmxCur d).rxDoneTs = q.rxDoneTs := rfl
@[simp] theorem Port.setDmxCur_lastSendTs (d : DmxRecord) (q : Port) : (q.setDmxCur d).lastSendTs = q.lastSendTs := rfl
@[simp] theorem Port.setDmxCur_tn (d : DmxRecord) (q : Port) : (q.setDmxCur d).tn = q.tn := rfl
@[simp] theorem Port.setDmxCur_txBuf (d : DmxRecord) (q : Port) : (q.setDmxCur d).txBuf = q.txBuf := rfl
@[simp] theorem Port.setDmxCur_txWr (d : DmxRecord) (q : Port) : (q.setDmxCur d).txWr = q.txWr := rfl
@[simp] theorem Port.setDmxCur_txRd (d : DmxRecord) (q : Port) : (q.setDmxCur d).txRd = q.txRd := rfl
@[simp] theorem Port.setDmxCur_curLen (d : DmxRecord) (q : Port) : (q.setDmxCur d).curLen = q.curLen := rfl
@[simp] theorem Port.setDmxCur_stgValid (d : DmxRecord) (q : Port) : (q.setDmxCur d).stgValid = q.stgValid := rfl
@[simp] theorem Port.setDmxCur_stgSlot (d : DmxRecord) (q : Port) : (q.setDmxCur d).stgSlot = q.stgSlot := rfl
@[simp] theorem Port.setDmxCur_stgLen (d : DmxRecord) (q : Port) : (q.setDmxCur d).stgLen = q.stgLen := rfl
@[simp] theorem Port.setDmxCur_dmaBusy (d : DmxRecord) (q : Port) : (q.setDmxCur d).dmaBusy = q.dmaBusy := rfl
@[simp] theorem Port.setDmxCur_dmaSlot (d : DmxRecord) (q : Port) : (q.setDmxCur d).dmaSlot = q.dmaSlot := rfl
@[simp] theorem Port.setDmxCur_dmaPos (d : DmxRecord) (q : Port) : (q.setDmxCur d).dmaPos = q.dmaPos := rfl
@[simp] theorem Port.setDmxCur_dmaLen (d : DmxRecord) (q : Port) : (q.setDmxCur d).dmaLen = q.dmaLen := rfl
@[simp] theorem Port.setDmxCur_thr (d : DmxRecord) (q : Port) : (q.setDmxCur d).thr = q.thr := rfl
@[simp] theorem Port.setDmxCur_thrFull (d : DmxRecord) (q : Port) : (q.setDmxCur d).thrFull = q.thrFull := rfl
@[simp] theorem Port.setDmxCur_tsr (d : DmxRecord) (q : Port) : (q.setDmxCur d).tsr = q.tsr := rfl
@[simp] theorem Port.setDmxCur_tsrBusy (d : DmxRecord) (q : Port) : (q.setDmxCur d).tsrBusy = q.tsrBusy := rfl
@[simp] theorem Port.setDmxCur_tsrRem (d : DmxRecord) (q : Port) : (q.setDmxCur d).tsrRem = q.tsrRem := rfl
@[simp] theorem Port.setDmxCur_brk (d : DmxRecord) (q : Port) : (q.setDmxCur d).brk = q.brk := rfl
@[simp] theorem Port.setDmxCur_wire (d : DmxRecord) (q : Port) : (q.setDmxCur d).wire = q.wire := rfl

@[simp] theorem Port.setRdmCur_dir (r : RdmBuf) (q : Port) : (q.setRdmCur r).dir = q.dir := rfl
@[simp] theorem Port.setRdmCur_enableData (r : RdmBuf) (q : Port) : (q.setRdmCur r).enableData = q.enableData := rfl
@[simp] theorem Port.setRdmCur_txset (r : RdmBuf) (q : Port) : (q.setRdmCur r).txset = q.txset := rfl
@[simp] theorem Port.setRdmCur_rxState (r : RdmBuf) (q : Port) : (q.setRdmCur r).rxState = q.rxState := rfl
@[simp] theorem Port.setRdmCur_rxQuiet (r : RdmBuf) (q : Port) : (q.setRdmCur r).rxQuiet = q.rxQuiet := rfl
@[simp] theorem Port.setRdmCur_rxQuietArmed (r : RdmBuf) (q : Port) : (q.setRdmCur r).rxQuietArmed = q.rxQuietArmed := rfl
@[simp] theorem Port.setRdmCur_dmxRing (r : RdmBuf) (q : Port) : (q.setRdmCur r).dmxRing = q.dmxRing := rfl
@[simp] theorem Port.setRdmCur_dmxHead (r : RdmBuf) (q : Port) : (q.setRdmCur r).dmxHead = q.dmxHead := rfl
@[simp] theorem Port.setRdmCur_dmxTail (r : RdmBuf) (q : Port) : (q.setRdmCur r).dmxTail = q.dmxTail := rfl
@[simp] theorem Port.setRdmCur_rdmRing (r : RdmBuf) (q : Port) : (q.setRdmCur r).rdmRing = q.rdmRing.put q.rdmHead r := rfl
@[simp] theorem Port.setRdmCur_rdmHead (r : RdmBuf) (q : Port) : (q.setRdmCur r).rdmHead = q.rdmHead := rfl
@[simp] theorem Port.setRdmCur_rdmTail (r : RdmBuf) (q : Port) : (q.setRdmCur r).rdmTail = q.rdmTail := rfl
@[simp] theorem Port.setRdmCur_rxFrames (r : RdmBuf) (q : Port) : (q.setRdmCur r).rxFrames = q.rxFrames := rfl
@[simp] theorem Port.setRdmCur_rxFramesPrev (r : RdmBuf) (q : Port) : (q.setRdmCur r).rxFramesPrev = q.rxFramesPrev := rfl
@[simp] theorem Port.setRdmCur_ups (r : RdmBuf) (q : Port) : (q.setRdmCur r).ups = q.ups := rfl
@[simp] theorem Port.setRdmCur_rxDoneTs (r : RdmBuf) (q : Port) : (q.setRdmCur r).rxDoneTs = q.rxDoneTs := rfl
@[simp] theorem Port.setRdmCur_lastSendTs (r : RdmBuf) (q : Port) : (q.setRdmCur r).lastSendTs = q.lastSendTs := rfl
@[simp] theorem Port.setRdmCur_tn (r : RdmBuf) (q : Port) : (q.setRdmCur r).tn = q.tn := rfl
@[simp] theorem Port.setRdmCur_txBuf (r : RdmBuf) (q : Port) : (q.setRdmCur r).txBuf = q.txBuf := rfl
@[simp] theorem Port.setRdmCur_txWr (r : RdmBuf) (q : Port) : (q.setRdmCur r).txWr = q.txWr := rfl
@[simp] theorem Port.setRdmCur_txRd (r : RdmBuf) (q : Port) : (q.setRdmCur r).txRd = q.txRd := rfl
@[simp] theorem Port.setRdmCur_curLen (r : RdmBuf) (q : Port) : (q.setRdmCur r).curLen = q.curLen := rfl
@[simp] theorem Port.setRdmCur_stgValid (r : RdmBuf) (q : Port) : (q.setRdmCur r).stgValid = q.stgValid := rfl
@[simp] theorem Port.setRdmCur_stgSlot (r : RdmBuf) (q : Port) : (q.setRdmCur r).stgSlot = q.stgSlot := rfl
@[simp] theorem Port.setRdmCur_stgLen (r : RdmBuf) (q : Port) : (q.setRdmCur r).stgLen = q.stgLen := rfl
@[simp] theorem Port.setRdmCur_dmaBusy (r : RdmBuf) (q : Port) : (q.setRdmCur r).dmaBusy = q.dmaBusy := rfl
@[simp] theorem Port.setRdmCur_dmaSlot (r : RdmBuf) (q : Port) : (q.setRdmCur r).dmaSlot = q.dmaSlot := rfl
@[simp] theorem Port.setRdmCur_dmaPos (r : RdmBuf) (q : Port) : (q.setRdmCur r).dmaPos = q.dmaPos := rfl
@[simp] theorem Port.setRdmCur_dmaLen (r : RdmBuf) (q : Port) : (q.setRdmCur r).dmaLen = q.dmaLen := rfl
@[simp] theorem Port.setRdmCur_thr (r : RdmBuf) (q : Port) : (q.setRdmCur r).thr = q.thr := rfl
@[simp] theorem Port.setRdmCur_thrFull (r : RdmBuf) (q : Port) : (q.setRdmCur r).thrFull = q.thrFull := rfl
@[simp] theorem Port.setRdmCur_tsr (r : RdmBuf) (q : Port) : (q.setRdmCur r).tsr = q.tsr := rfl
@[simp] theorem Port.setRdmCur_tsrBusy (r : RdmBuf) (q : Port) : (q.setRdmCur r).tsrBusy = q.tsrBusy := rfl
@[simp] theorem Port.setRdmCur_tsrRem (r : RdmBuf) (q : Port) : (q.setRdmCur r).tsrRem = q.tsrRem := rfl
@[simp] theorem Port.setRdmCur_brk (r : RdmBuf) (q : Port) : (q.setRdmCur r).brk = q.brk := rfl
@[simp] theorem Port.setRdmCur_wire (r : RdmBuf) (q : Port) : (q.setRdmCur r).wire = q.wire := rfl

theorem Port.breakOn_eq (t : Micros) (q : Port) : q.breakOn t = { q with brk := true, wire := q.wire ++ [.brkOn t] } := rfl

theorem Port.breakOff_eq (t : Micros) (q : Port) : q.breakOff t = { q with brk := false, wire := q.wire ++ [.brkOff t] } := rfl

/-! ### The ports after an update -/

theorem State.getElem?_updPort_self (p : Nat) (f : Port → Port) (s : State) :
    (s.updPort p f).ports[p]? = s.ports[p]?.map f := by simp

theorem State.getElem?_updPort_ne {p r : Nat} (h : r ≠ p) (f : Port → Port) (s : State) :
    (s.updPort p f).ports[r]? = s.ports[r]? := by
  simp only [State.updPort_ports, List.getElem?_modify]
  have : ¬ p = r := fun e => h e.symm
  cases s.ports[r]? <;> simp [this]

theorem State.length_updPort (p : Nat) (f : Port → Port) (s : State) : (s.updPort p f).ports.length = s.ports.length := by
  simp

/-- A port of a state after an update of port `p` is an old port, or the update of the old port `p`. -/
theorem State.mem_updPort {p : Nat} {f : Port → Port} {s : State} {q : Port} (h : q ∈ (s.updPort p f).ports) :
    q ∈ s.ports ∨ ∃ q₀, s.ports[p]? = some q₀ ∧ q₀ ∈ s.ports ∧ q = f q₀ := by
  obtain ⟨r, hr⟩ := List.mem_iff_getElem?.mp h
  by_cases hrp : r = p
  · subst hrp
    rw [State.getElem?_updPort_self] at hr
    obtain ⟨q₀, h₀, rfl⟩ := Option.map_eq_some_iff.mp hr
    exact .inr ⟨q₀, h₀, List.mem_of_getElem? h₀, rfl⟩
  · rw [State.getElem?_updPort_ne hrp] at hr
    exact .inl (List.mem_of_getElem? hr)

end Sys2Proof.Machine
end

