-- ==== Sys2Proof/Laws/Ports.lean ====
section
/-! SUPPORT. The port operand and the update of one port, as statements name them. -/

namespace Sys2Proof.Machine

theorem State.withPort_some {port : BitVec 4} {s : State} {q : Port} (h : s.ports[port.toNat]? = some q)
    (k : Nat → Port → State) : s.withPort port k = k port.toNat q := by simp [State.withPort, h]

theorem State.withPort_none {port : BitVec 4} {s : State} (h : s.ports.length ≤ port.toNat)
    (k : Nat → Port → State) : s.withPort port k = s.finish .port := by
  simp [State.withPort, List.getElem?_eq_none h]

/-- Updating a port that exists replaces it. -/
theorem State.updPort_eq {s : State} {p : Nat} {q : Port} (h : s.ports[p]? = some q) (f : Port → Port) :
    s.updPort p f = s.withPortSet p (f q) := by
  have : s.ports.modify p f = s.ports.set p (f q) := by
    apply List.ext_getElem?
    intro i
    by_cases hi : p = i
    · subst hi
      obtain ⟨hp, rfl⟩ := List.getElem?_eq_some_iff.mp h
      simp [hp]
    · simp [hi]
  simp [State.updPort, State.withPortSet, this]

/-- Replacing a port by itself changes nothing. -/
theorem State.withPortSet_self {s : State} {p : Nat} {q : Port} (h : s.ports[p]? = some q) : s.withPortSet p q = s := by
  obtain ⟨hp, hq⟩ := List.getElem?_eq_some_iff.mp h
  have : s.ports.set p q = s.ports := by rw [← hq]; exact List.set_getElem_self hp
  simp [State.withPortSet, this]

theorem State.getElem?_withPortSet {s : State} {p : Nat} {q q' : Port} (h : s.ports[p]? = some q) (r : Nat) :
    (s.withPortSet p q').ports[r]? = if r = p then some q' else s.ports[r]? := by
  obtain ⟨hp, _⟩ := List.getElem?_eq_some_iff.mp h
  by_cases hr : p = r
  · subst hr; simp [State.withPortSet, hp]
  · have hr' : ¬ r = p := fun e => hr e.symm
    simp [State.withPortSet, hr, hr']

/-- A port after the replacement of port `p` is the new one or an old one. -/
theorem State.mem_withPortSet {s : State} {p : Nat} {q' r : Port} (h : r ∈ (s.withPortSet p q').ports) :
    r = q' ∨ r ∈ s.ports := (List.mem_or_eq_of_mem_set h).symm

/-- `complete` as statements name it. -/
theorem State.complete_eq_ended (e : ErrCode) (v : Bool) (a b : Word) (s : State) :
    s.complete e v a b = ended e v a b s := rfl

theorem State.finish_eq_ended (e : ErrCode) (s : State) : s.finish e = ended e false 0#32 0#32 s := rfl

end Sys2Proof.Machine
end

