-- ==== Sys2Proof/Laws/Commands.lean ====
section
/-! SUPPORT. Everything the accepting write of a command can do, and everything substep T7 can do, said once
(30_encoding.md R115, 43_rdm_primitives.md R253 to R260, 44_port_controller.md R290 to R293): a proof about all commands goes by
cases on these and unfolds no meaning. -/

namespace Sys2Proof.Machine

/-- The effects of an accepting write, each with what held of the state and the operands. -/
inductive CommandEffect (i : Instr) (s : State) : State → Prop where
  /-- an error, or a command with nothing to do -/
  | ended (e : ErrCode) : CommandEffect i s (s.finish e)
  /-- a timing setter -/
  | configured (b m r : BitVec 20) (n : BitVec 10) (hb : b = s.breakTime ∨ 92 ≤ b.toNat)
      (hm : m = s.mabTime ∨ 12 ≤ m.toNat) (hn : n = s.slots ∨ (1 ≤ n.toNat ∧ n.toNat ≤ 512)) :
      CommandEffect i s
        ((State.recomputePeriod { s with breakTime := b, mabTime := m, periodReq := r, slots := n }).finish .none)
  /-- TXDATA -/
  | enqueued (port : BitVec 4) (len : BitVec 10) (q : Port) (n : Nat) (hi : i = .txdata port len)
      (hq : s.ports[port.toNat]? = some q) (hn : n ≤ s.slots.toNat) :
      CommandEffect i s ((State.recomputePeriod (s.updPort port.toNat (Port.enqueueFrame n s.pbuf))).finish .none)
  /-- SET_DIR that arms a port in its direction -/
  | enabled (p : Nat) (q : Port) (hp : p = i.portBits.toNat) (hq : s.ports[p]? = some q) (hd : q.dir ≠ .idle) :
      CommandEffect i s ((s.updPort p Port.enable).finish .none)
  /-- SET_DIR with nothing to wait for -/
  | turned (p : Nat) (q : Port) (d : Dir) (e : Bool) (hp : p = i.portBits.toNat) (hq : s.ports[p]? = some q)
      (ht : q.txActive = false) (hd : d ≠ .idle) :
      CommandEffect i s ((s.updPort p Port.drainNow).finishDir p d e)
  /-- SET_DIR that starts a drain -/
  | draining (p : Nat) (q : Port) (hf : i.format ≠ .g) (hp : p = i.portBits.toNat) (hq : s.ports[p]? = some q)
      (ht : q.txActive = true) :
      CommandEffect i s (s.hold .dirA)
  /-- a raw send that starts its wait -/
  | raw (p : Nat) (q : Port) (len : BitVec 10) (hf : i.format ≠ .g) (hp : p = i.portBits.toNat)
      (hq : s.ports[p]? = some q) (ht : q.txActive = false) (hl : 1 ≤ len.toNat ∧ len.toNat ≤ 512) :
      CommandEffect i s (s.startRaw len)
  /-- GET_UPS -/
  | counted (r0 : Word) : CommandEffect i s (s.complete .none false r0 0#32)
  /-- GET_DMX that finds a record -/
  | fetched (port : BitVec 4) (q : Port) (r0 r1 : Word) (n : Nat) (hi : i = .getDmx port)
      (hq : s.ports[port.toNat]? = some q) (hr : q.dmxHead ≠ q.dmxTail)
      (hn : n = (q.dmxRing.get q.dmxTail).slots.toNat + 1) :
      CommandEffect i s
        (((s.storeRbuf 0 ((q.dmxRing.get q.dmxTail).data.bytes 0 n)).updPort port.toNat
          fun q => { q with dmxTail := nextIndex q.dmxTail }).complete .none true r0 r1)
  /-- RDM_RECV or RDM_RECV_TO that finds a packet; the latter takes a timestamp first -/
  | delivered (port : BitVec 4) (q : Port) (t0 : Word) (hi : i = .rdmRecv port ∨ i = .rdmRecvTo port)
      (hq : s.ports[port.toNat]? = some q) (hr : q.rdmHead ≠ q.rdmTail) :
      CommandEffect i s (State.deliver port.toNat q { s with cmdT0 := t0 })
  /-- RDM_RECV_TO with a zero timeout -/
  | timedOut : CommandEffect i s (State.finish .none { s with cmdT0 := s.micros })
  /-- RDM_RECV_TO that starts its wait -/
  | waiting (p : Nat) (hf : i.format ≠ .g) (hp : p = i.portBits.toNat) (hq : p < s.ports.length) :
      CommandEffect i s (State.hold .recvWait { s with cmdT0 := s.micros })

theorem lengthOperandLegal_iff (len : BitVec 10) : lengthOperandLegal len = true ↔ 1 ≤ len.toNat ∧ len.toNat ≤ 512 := by
  simp [lengthOperandLegal]
  omega

theorem slotsOperandLegal_iff (n : BitVec 10) : slotsOperandLegal n = true ↔ 1 ≤ n.toNat ∧ n.toNat ≤ 512 := by
  simp [slotsOperandLegal]
  omega

theorem dirOperand_ne_idle {d : BitVec 2} {dir : Dir} (h : dirOperand d = some dir) : dir ≠ .idle := by
  unfold dirOperand at h
  split_ifs at h <;> simp at h <;> subst h <;> simp

theorem rawSendReady_txActive {q : Port} (h : q.rawSendReady = true) : q.txActive = false := by
  simp only [Port.rawSendReady, Bool.and_eq_true, Bool.not_eq_true'] at h
  simp [Port.txActive, h.2]

/-- The raw sends with a length operand: refused, or started on a port that is not transmitting. -/
theorem acceptRaw_effect {i : Instr} {s : State} {p : Nat} {q : Port} {len : BitVec 10} {ready : Bool}
    (hf : i.format ≠ .g) (hp : p = i.portBits.toNat) (hq : s.ports[p]? = some q)
    (hr : ready = true → q.txActive = false) :
    CommandEffect i s (s.acceptRaw len ready) := by
  unfold State.acceptRaw
  split_ifs with h1 h2
  · exact .ended _
  · exact .ended _
  · simp only [Bool.not_eq_true, Bool.not_eq_false'] at h1 h2
    exact .raw p q len hf hp hq (hr h2) ((lengthOperandLegal_iff len).mp h1)

/-- A command with a port operand either finds no port, or runs on one. -/
theorem withPort_effect {i : Instr} {s : State} (port : BitVec 4) {k : Nat → Port → State}
    (h : ∀ q, s.ports[port.toNat]? = some q → CommandEffect i s (k port.toNat q)) :
    CommandEffect i s (s.withPort port k) := by
  unfold State.withPort
  split
  · exact .ended _
  · next q hq => exact h q hq

/-- Every command answers a next state, which is one of the effects above. -/
theorem exec_effect (i : Instr) (s : State) : ∃ t, exec i s = .next t ∧ CommandEffect i s t := by
  cases i with
  | nop => exact ⟨_, rfl, .ended _⟩
  | setBreak us =>
    refine ⟨_, rfl, .configured _ s.mabTime s.periodReq s.slots (.inr ?_) (.inl rfl) (.inl rfl)⟩
    have := us.isLt
    simp only [BitVec.toNat_ofNat, Config.breakTimeMinUs]
    omega
  | setMab us =>
    refine ⟨_, rfl, .configured s.breakTime _ s.periodReq s.slots (.inl rfl) (.inr ?_) (.inl rfl)⟩
    have := us.isLt
    simp only [BitVec.toNat_ofNat, Config.mabTimeMinUs]
    omega
  | setPeriod us => exact ⟨_, rfl, .configured s.breakTime s.mabTime us s.slots (.inl rfl) (.inl rfl) (.inl rfl)⟩
  | setSlots n =>
    refine ⟨_, rfl, ?_⟩
    split_ifs with h
    · exact .configured s.breakTime s.mabTime s.periodReq n (.inl rfl) (.inl rfl) (.inr ((slotsOperandLegal_iff n).mp h))
    · exact .ended _
  | setDir port e d =>
    refine ⟨_, rfl, withPort_effect port fun q hq => ?_⟩
    cases hd : dirOperand d with
    | none => exact .ended _
    | some dir =>
      dsimp only
      split_ifs with h1 h2 h3
      · exact .ended _
      · exact .enabled _ q rfl hq (h2.1 ▸ dirOperand_ne_idle hd)
      · exact .draining _ q (by simp [Instr.format]) rfl hq (by simp [Port.txActive, h3])
      · refine .turned _ q dir _ rfl hq ?_ (dirOperand_ne_idle hd)
        rw [Bool.eq_false_iff]
        intro hc
        exact h3 (by simpa [Port.txActive] using hc)
  | txdata port len =>
    exact ⟨_, rfl, withPort_effect port fun q hq => .enqueued port len q _ rfl hq (Nat.min_le_right _ _)⟩
  | getDmx port =>
    refine ⟨_, rfl, withPort_effect port fun q hq => ?_⟩
    split_ifs with h
    · exact .ended _
    · exact .fetched port q _ _ _ rfl hq h rfl
  | getUps port => exact ⟨_, rfl, withPort_effect port fun q _ => .counted _⟩
  | rdmSendraw port len =>
    exact ⟨_, rfl, withPort_effect port fun q hq => acceptRaw_effect (by simp [Instr.format]) rfl hq rawSendReady_txActive⟩
  | rdmSend port =>
    refine ⟨_, rfl, withPort_effect port fun q hq => ?_⟩
    split_ifs with h1 h2
    · exact .ended _
    · exact .ended _
    · refine .raw _ q _ (by simp [Instr.format]) rfl hq (rawSendReady_txActive (by simpa using h2)) ?_
      have : s.messageLength < 256 := (s.pbuf.read 2).isLt
      simp only [BitVec.toNat_ofNat]
      omega
  | rdmRecv port =>
    refine ⟨_, rfl, withPort_effect port fun q hq => ?_⟩
    split_ifs with h
    · exact .ended _
    · exact .delivered port q s.cmdT0 (.inl rfl) hq h
  | rdmRecvTo port =>
    refine ⟨_, rfl, withPort_effect port fun q hq => ?_⟩
    split_ifs with h1 h2
    · exact .delivered port q s.micros (.inr rfl) hq h1
    · exact .timedOut
    · exact .waiting _ (by simp [Instr.format]) rfl (List.getElem?_eq_some_iff.mp hq).1
  | rdmRespondRaw port len =>
    exact ⟨_, rfl, withPort_effect port fun q hq => acceptRaw_effect (by simp [Instr.format]) rfl hq rawSendReady_txActive⟩
  | rdmRespondDisc port len =>
    exact ⟨_, rfl, withPort_effect port fun q hq => acceptRaw_effect (by simp [Instr.format]) rfl hq fun h => by simpa using h⟩

theorem exec_cases {i : Instr} {s t : State} (h : exec i s = .next t) : CommandEffect i s t := by
  obtain ⟨u, hu, hc⟩ := exec_effect i s
  rw [hu] at h
  exact Host.Outcome.next.inj h ▸ hc

/-- The effects of substep T7 on the port `p` of the command in progress: the guard was false, or one phase action ran. -/
inductive PhaseEffect (s : State) : State → Prop where
  | held : PhaseEffect s s
  /-- the end of phase 1 of a send with a break; `k` is the command's own preparation -/
  | broke (q : Port) (k : RawSend) (hk : k ≠ .respondDisc) (hq : s.ports[s.cmdPort]? = some q) (hph : s.cmdPhase = .wait) :
      PhaseEffect s (s.beginRaw k s.cmdPort q)
  /-- the end of phase 1 of a discovery response -/
  | responded (q : Port) (hq : s.ports[s.cmdPort]? = some q) (hph : s.cmdPhase = .wait) :
      PhaseEffect s (s.beginRaw .respondDisc s.cmdPort q)
  | marked (q : Port) (hq : s.ports[s.cmdPort]? = some q) (hph : s.cmdPhase = .brk) :
      PhaseEffect s { s.updPort s.cmdPort (Port.breakOff s.micros) with cmdT0 := s.micros, cmdPhase := .mab }
  | started (q : Port) (hq : s.ports[s.cmdPort]? = some q) (hph : s.cmdPhase = .mab) :
      PhaseEffect s (s.firstByte s.cmdPort)
  | sent (q : Port) (hq : s.ports[s.cmdPort]? = some q) (hph : s.cmdPhase = .data) (hf : q.thrFull = false) :
      PhaseEffect s
        { s.updPort s.cmdPort (Port.loadThr (s.pbuf.read s.cmdPos.toNat)) with
          cmdPos := s.cmdPos + 1#10
          cmdPhase := if s.cmdPos + 1#10 = s.cmdLen then .drain else s.cmdPhase }
  | drained (q : Port) (k : RawSend) (hq : s.ports[s.cmdPort]? = some q) (hph : s.cmdPhase = .drain)
      (he : q.txEmpty = true) : PhaseEffect s (s.endRaw k s.cmdPort)
  | returned (q : Port) (hq : s.ports[s.cmdPort]? = some q) (hph : s.cmdPhase = .post) :
      PhaseEffect s ((s.updPort s.cmdPort fun q => (Port.switchTo .input s.micros q).enable).finish .none)
  | disabled (q : Port) (hq : s.ports[s.cmdPort]? = some q) (hph : s.cmdPhase = .dirA) (hs : s.schedState = .interFrame) :
      PhaseEffect s { s.updPort s.cmdPort Port.disable with cmdPhase := .dirB }
  | switched (q : Port) (d : Dir) (e : Bool) (hq : s.ports[s.cmdPort]? = some q) (hph : s.cmdPhase = .dirB)
      (he : q.dmaBusy = false ∧ q.txEmpty = true) (hd : d ≠ .idle) :
      PhaseEffect s (s.finishDir s.cmdPort d e)
  | delivered (q : Port) (hq : s.ports[s.cmdPort]? = some q) (hph : s.cmdPhase = .recvWait) (hr : q.rdmHead ≠ q.rdmTail) :
      PhaseEffect s (s.deliver s.cmdPort q)
  | timedOut (hph : s.cmdPhase = .recvWait) : PhaseEffect s (s.finish .none)

/-- Substep T7 does one of the above. -/
theorem commandStep_cases (s : State) : PhaseEffect s s.commandStep := by
  unfold State.commandStep
  split
  · exact .held
  next q hq =>
  cases hph : s.cmdPhase with
  | none => exact .held
  | wait =>
    dsimp only [State.phaseWait]
    split
    · exact .held
    next k _ =>
    split_ifs
    · cases k with
      | respondDisc => exact .responded q hq hph
      | sendraw => exact .broke q _ (by simp) hq hph
      | send => exact .broke q _ (by simp) hq hph
      | respondRaw => exact .broke q _ (by simp) hq hph
    · exact .held
  | brk =>
    dsimp only [State.phaseBreak]
    split_ifs
    · exact .marked q hq hph
    · exact .held
  | mab =>
    dsimp only [State.phaseMab]
    split_ifs
    · exact .started q hq hph
    · exact .held
  | data =>
    dsimp only [State.phaseData]
    by_cases h : q.thrFull = false
    · rw [if_pos (by simp [h])]
      exact .sent q hq hph h
    · rw [if_neg (by simpa using h)]
      exact .held
  | drain =>
    dsimp only [State.phaseDrain]
    split_ifs with h
    · split
      · exact .held
      next k _ => exact .drained q k hq hph h
    · exact .held
  | post =>
    dsimp only [State.phasePost]
    split_ifs
    · exact .returned q hq hph
    · exact .held
  | dirA =>
    dsimp only [State.phaseDirA]
    split_ifs with h
    · exact .disabled q hq hph h
    · exact .held
  | dirB =>
    dsimp only [State.phaseDirB]
    split_ifs with h
    · split
      next d hd => exact .switched q d _ hq hph (by simpa using h) (dirOperand_ne_idle hd)
      · exact .held
    · exact .held
  | recvWait =>
    dsimp only [State.phaseRecvWait]
    split_ifs with h1 h2
    · exact .delivered q hq hph h1
    · exact .timedOut hph
    · exact .held

end Sys2Proof.Machine
end

