-- ==== Sys2Proof/Laws/Decode.lean ====
section
/-! SUPPORT. The fields of an encoded command word, a word from its three fields, and the decoder inverted. -/

namespace Sys2Proof

@[simp] theorem opcodeField_encode (i : Instr) : opcodeField (encode i) = i.opcode := by
  apply BitVec.eq_of_getLsbD_eq
  intro k hk
  simp only [opcodeField, encode, BitVec.getLsbD_extractLsb', BitVec.getLsbD_append]
  have h1 : ¬ (24 + k < 20) := by omega
  have h2 : ¬ (24 + k - 20 < 4) := by omega
  have h3 : 24 + k - 20 - 4 = k := by omega
  simp [h1, h2, h3, hk]

@[simp] theorem portField_encode (i : Instr) : portField (encode i) = i.portBits := by
  apply BitVec.eq_of_getLsbD_eq
  intro k hk
  simp only [portField, encode, BitVec.getLsbD_extractLsb', BitVec.getLsbD_append]
  have h1 : ¬ (20 + k < 20) := by omega
  have h3 : 20 + k - 20 = k := by omega
  simp [h1, hk, h3]

@[simp] theorem immField_encode (i : Instr) : immField (encode i) = i.immBits := by
  apply BitVec.eq_of_getLsbD_eq
  intro k hk
  simp only [immField, encode, BitVec.getLsbD_extractLsb', BitVec.getLsbD_append]
  simp [hk]

/-- A word is its three fields. -/
theorem word_eq_fields (w : Word) : w = opcodeField w ++ portField w ++ immField w := by
  apply BitVec.eq_of_getLsbD_eq
  intro k hk
  simp only [opcodeField, portField, immField, BitVec.getLsbD_extractLsb', BitVec.getLsbD_append]
  rcases Nat.lt_or_ge k 20 with h | h
  · simp [h]
  · rcases Nat.lt_or_ge k 24 with h' | h'
    · simp [Nat.not_lt.mpr h, show k - 20 < 4 by omega, show 20 + (k - 20) = k by omega]
    · simp [Nat.not_lt.mpr h, show ¬ k - 20 < 4 by omega, show k - 20 - 4 < 8 by omega,
        show 24 + (k - 20 - 4) = k by omega]

theorem decodeG_ok {w : Word} {r : Bool} {i j : Instr} (h : decodeG w r i = .ok j) :
    i = j ∧ portField w = 0#4 ∧ r = false := by
  unfold decodeG at h
  split_ifs at h with h1 h2
  exact ⟨Except.ok.inj h, not_not.mp h1, by simpa using h2⟩

theorem decodeP_ok {w : Word} {r : Bool} {i j : Instr} (h : decodeP w r i = .ok j) : i = j ∧ r = false := by
  unfold decodeP at h
  split_ifs at h with h1
  exact ⟨Except.ok.inj h, by simpa using h1⟩

/-- An immediate whose bits from 10 up are zero is its low 10 bits. -/
theorem imm10_of_zero {imm : BitVec 20} (h : imm.extractLsb' 10 10 = 0#10) : imm = 0#10 ++ imm10 imm := by
  apply BitVec.eq_of_getLsbD_eq
  intro k hk
  simp only [imm10, BitVec.getLsbD_append, BitVec.getLsbD_extractLsb']
  rcases Nat.lt_or_ge k 10 with hlt | hge
  · simp [hlt]
  · have := congrArg (fun b => b.getLsbD (k - 10)) h
    simp only [BitVec.getLsbD_extractLsb', show k - 10 < 10 by omega, show 10 + (k - 10) = k by omega] at this
    simpa [Nat.not_lt.mpr hge] using this

/-- An immediate whose bits from 3 up are zero is its enable and direction bits. -/
theorem imm3_of_zero {imm : BitVec 20} (h : imm.extractLsb' 3 17 = 0#17) : imm = 0#17 ++ immE imm ++ immD imm := by
  apply BitVec.eq_of_getLsbD_eq
  intro k hk
  simp only [immE, immD, BitVec.getLsbD_append, BitVec.getLsbD_extractLsb']
  rcases Nat.lt_or_ge k 2 with hlt | hge
  · simp [hlt]
  · rcases Nat.lt_or_ge k 3 with hlt' | hge'
    · have : k = 2 := by omega
      subst this
      simp
    · have := congrArg (fun b => b.getLsbD (k - 3)) h
      simp only [BitVec.getLsbD_extractLsb', show k - 3 < 17 by omega, show 3 + (k - 3) = k by omega] at this
      simpa [Nat.not_lt.mpr hge, show ¬ k - 2 < 1 by omega] using this

end Sys2Proof
end

