-- ==== Sys2Proof/Laws/Memory.lean ====
section
/-! SUPPORT. The laws of buffers and banks: what a read gives after a store, that a store keeps the canonical form, and what a
bank holds after one member was replaced. -/

namespace Sys2Proof.Machine

theorem Memory.byte?_append (m n : Memory) (i : Nat) : Memory.byte? (m ++ n) i = (m.byte? i).or (n.byte? i) := by
  simp [Memory.byte?, List.lookup_append]

theorem Memory.byte?_filter (m : Memory) (P : Nat → Bool) (i : Nat) :
    Memory.byte? (m.filter (fun c => P c.1)) i = if P i then m.byte? i else none := by
  induction m with
  | nil => simp [Memory.byte?]
  | cons c m ih =>
    obtain ⟨k, v⟩ := c
    simp only [Memory.byte?] at ih ⊢
    by_cases hi : i = k
    · subst hi
      cases hp : P i
      · rw [List.filter_cons_of_neg (by simp [hp]), ih, hp]
        simp
      · rw [List.filter_cons_of_pos (by simp [hp])]
        simp
    · cases hp : P k
      · rw [List.filter_cons_of_neg (by simp [hp]), ih]
        simp [List.lookup_cons, beq_eq_false_iff_ne.mpr hi]
      · rw [List.filter_cons_of_pos (by simp [hp])]
        simp [List.lookup_cons, beq_eq_false_iff_ne.mpr hi, ih]

theorem Memory.byte?_cellsFrom (a : Nat) (bs : List Byte) (i : Nat) :
    Memory.byte? (Memory.cellsFrom a bs) i = if a ≤ i then bs[i - a]? else none := by
  induction bs generalizing a with
  | nil => simp [Memory.byte?, Memory.cellsFrom]
  | cons b bs ih =>
    simp only [Memory.byte?] at ih
    simp only [Memory.byte?, Memory.cellsFrom, List.lookup_cons, ih]
    by_cases hi : i = a
    · simp [hi]
    · rw [beq_eq_false_iff_ne.mpr hi]
      by_cases hle : a ≤ i
      · have h1 : a + 1 ≤ i := by omega
        have h2 : i - a = (i - (a + 1)) + 1 := by omega
        simp [h1, hle, h2]
      · have h1 : ¬ a + 1 ≤ i := by omega
        simp [h1, hle]

/-- A byte after a store: the stored one inside the stored range, the old one outside it. -/
theorem Memory.byte?_store (m : Memory) (a : Nat) (bs : List Byte) (i : Nat) :
    (m.store a bs).byte? i = if a ≤ i ∧ i < a + bs.length then bs[i - a]? else m.byte? i := by
  have hl := Memory.byte?_filter m (fun k => decide (k < a)) i
  have hr := Memory.byte?_filter m (fun k => decide (a + bs.length ≤ k)) i
  simp only [Memory.store, Memory.byte?_append, Memory.byte?_cellsFrom, hl, hr]
  rcases Nat.lt_or_ge i a with h | h
  · simp [h, Nat.not_le.mpr h, show ¬ a + bs.length ≤ i by omega]
  · rcases Nat.lt_or_ge i (a + bs.length) with h' | h'
    · simp [h, Nat.not_lt.mpr h, Nat.not_le.mpr h', h']
    · have : bs[i - a]? = none := List.getElem?_eq_none (by omega)
      simp [h, Nat.not_lt.mpr h, h', Nat.not_lt.mpr h', this]

theorem Memory.cellsFrom_keys (a : Nat) (bs : List Byte) :
    ∀ c ∈ Memory.cellsFrom a bs, a ≤ c.1 ∧ c.1 < a + bs.length := by
  induction bs generalizing a with
  | nil => simp [Memory.cellsFrom]
  | cons b bs ih =>
    intro c hc
    rcases List.mem_cons.mp hc with rfl | hc
    · simp
    · have := ih (a + 1) c hc
      simp only [List.length_cons]
      omega

theorem Memory.cellsFrom_wf (a : Nat) (bs : List Byte) : Memory.wf (Memory.cellsFrom a bs) := by
  induction bs generalizing a with
  | nil => exact List.Pairwise.nil
  | cons b bs ih =>
    refine List.Pairwise.cons (fun c hc => ?_) (ih (a + 1))
    have := Memory.cellsFrom_keys (a + 1) bs c hc
    simp only
    omega

/-- Every store keeps the canonical form of a memory. -/
theorem Memory.store_wf {m : Memory} (h : m.wf) (a : Nat) (bs : List Byte) : (m.store a bs).wf := by
  refine List.pairwise_append.mpr ⟨h.filter _, List.pairwise_append.mpr ⟨Memory.cellsFrom_wf a bs, h.filter _, ?_⟩, ?_⟩
  · intro x hx y hy
    have := Memory.cellsFrom_keys a bs x hx
    have hy := List.mem_filter.mp hy
    simp only [decide_eq_true_eq] at hy
    omega
  · intro x hx y hy
    have hx := List.mem_filter.mp hx
    simp only [decide_eq_true_eq] at hx
    rcases List.mem_append.mp hy with hy | hy
    · have := Memory.cellsFrom_keys a bs y hy
      omega
    · have hy := List.mem_filter.mp hy
      simp only [decide_eq_true_eq] at hy
      omega

@[simp] theorem Buffer.store_id (b : Buffer) (a : Nat) (bs : List Byte) : (b.store a bs).id = b.id := rfl
@[simp] theorem Buffer.store_epoch (b : Buffer) (a : Nat) (bs : List Byte) : (b.store a bs).epoch = b.epoch := rfl
@[simp] theorem Buffer.store_cells (b : Buffer) (a : Nat) (bs : List Byte) :
    (b.store a bs).cells = b.cells.store a bs := rfl

/-- Read after store, inside the stored range. -/
theorem Buffer.read_store_mem (b : Buffer) {a i : Nat} {bs : List Byte} (h : a ≤ i) (h' : i - a < bs.length) :
    (b.store a bs).read i = bs[i - a] := by
  have : i < a + bs.length := by omega
  simp [Buffer.read, Memory.byte?_store, h, this, List.getElem?_eq_getElem h']

/-- Read after store, outside the stored range. -/
theorem Buffer.read_store_ne (b : Buffer) {a i : Nat} {bs : List Byte} (h : i < a ∨ a + bs.length ≤ i) :
    (b.store a bs).read i = b.read i := by
  have : ¬ (a ≤ i ∧ i < a + bs.length) := by omega
  simp [Buffer.read, Memory.byte?_store, this]

theorem Buffer.read_write (b : Buffer) (i j : Nat) (v : Byte) :
    (b.write i v).read j = if j = i then v else b.read j := by
  by_cases h : j = i
  · subst h
    simp only [if_true, Buffer.write]
    rw [Buffer.read_store_mem b (le_refl j) (by simp)]
    simp
  · rw [if_neg h]
    exact b.read_store_ne (by simp only [List.length_cons, List.length_nil]; omega)

theorem Buffer.store_wf {b : Buffer} (h : b.cells.wf) (a : Nat) (bs : List Byte) : (b.store a bs).cells.wf :=
  Memory.store_wf h a bs

@[simp] theorem Buffer.bytes_length (b : Buffer) (a n : Nat) : (b.bytes a n).length = n := by simp [Buffer.bytes]

theorem Buffer.bytes_getElem (b : Buffer) {a n k : Nat} (h : k < (b.bytes a n).length) :
    (b.bytes a n)[k] = b.read (a + k) := by simp [Buffer.bytes]

/-! ### Banks -/

@[simp] theorem Bank.get_put_self {α : Type} {w : Nat} (v : Bank α w) (i : BitVec w) (x : α) :
    Bank.get (Bank.put v i x) i = x := by simp [Bank.get, Bank.put]

theorem Bank.get_put_ne {α : Type} {w : Nat} (v : Bank α w) {i j : BitVec w} (h : j ≠ i) (x : α) :
    Bank.get (Bank.put v i x) j = Bank.get v j := by
  have : i.toNat ≠ j.toNat := fun e => h (BitVec.eq_of_toNat_eq e.symm)
  simp [Bank.get, Bank.put, Vector.getElem_set_ne, this]

theorem Bank.get_put {α : Type} {w : Nat} (v : Bank α w) (i j : BitVec w) (x : α) :
    Bank.get (Bank.put v i x) j = if j = i then x else Bank.get v j := by
  split
  · next h => subst h; exact Bank.get_put_self v j x
  · next h => exact Bank.get_put_ne v h x

@[simp] theorem Bank.get_fill {α : Type} (w : Nat) (f : BitVec w → α) (i : BitVec w) : Bank.get (Bank.fill w f) i = f i := by
  simp [Bank.get, Bank.fill]

end Sys2Proof.Machine
end

