-- ==== Sys2Proof/Laws/Inside.lean ====
section
/-! SUPPORT. Every operation that writes a buffer, at indices its bounds allow, leaves every buffer in its place and writes no
byte outside its size (45_common_semantics.md R405, R406). -/

namespace Sys2Proof.Machine

theorem Buffer.Inside.store {id : BufId} {b : Buffer} (h : b.Inside id) {a : Nat} {bs : List Byte}
    (ha : a + bs.length ≤ id.size) : (b.store a bs).Inside id := by
  refine ⟨h.1, fun c hc => ?_⟩
  simp only [Buffer.store_cells, Memory.store, List.mem_append, List.mem_filter] at hc
  rcases hc with hc | hc | hc
  · exact h.2 c hc.1
  · have := (Memory.cellsFrom_keys a bs c hc).2
    omega
  · exact h.2 c hc.1

theorem Buffer.Inside.write {id : BufId} {b : Buffer} (h : b.Inside id) {i : Nat} (hi : i < id.size) (v : Byte) :
    (b.write i v).Inside id := h.store (by simpa using hi)

theorem Buffer.Inside.unwritten (k : Nat) (id : BufId) : (Buffer.unwritten k id).Inside id :=
  ⟨rfl, by simp [Buffer.unwritten]⟩

theorem Port.Inside.congr {p : Nat} {q r : Port} (h : q.Inside p) (ht : r.txBuf = q.txBuf) (hd : r.dmxRing = q.dmxRing)
    (hr : r.rdmRing = q.rdmRing) : r.Inside p :=
  ⟨ht ▸ h.tx, hd ▸ h.dmx, hr ▸ h.rdm⟩

theorem Port.setDmxCur_inside {p : Nat} {q : Port} (h : q.Inside p) {d : DmxRecord}
    (hd : d.data.Inside (.dmxRing p q.dmxHead)) : (q.setDmxCur d).Inside p := by
  refine ⟨h.tx, fun i => ?_, h.rdm⟩
  simp only [Port.setDmxCur, Bank.get_put]
  split
  · next hi => exact hi ▸ hd
  · exact h.dmx i

theorem Port.setRdmCur_inside {p : Nat} {q : Port} (h : q.Inside p) {r : RdmBuf}
    (hr : r.data.Inside (.rdmRing p q.rdmHead)) : (q.setRdmCur r).Inside p := by
  refine ⟨h.tx, h.dmx, fun i => ?_⟩
  simp only [Port.setRdmCur, Bank.get_put]
  split
  · next hi => exact hi ▸ hr
  · exact h.rdm i

/-- TXDATA writes the start code and at most 512 data slots. -/
theorem Port.enqueueFrame_inside {p : Nat} {q : Port} (h : q.Inside p) {n : Nat} (hn : n ≤ Config.dmxMaxSlots) (src : Buffer) :
    (q.enqueueFrame n src).Inside p := by
  refine ⟨fun k => ?_, h.dmx, h.rdm⟩
  simp only [Port.enqueueFrame, Bank.get_put]
  split
  · next hk =>
    subst hk
    refine (h.tx _).store ?_
    simp only [Config.dmxMaxSlots] at hn
    simp only [List.length_cons, Buffer.bytes_length, BufId.size, Config.dmxFrameBytes]
    omega
  · exact h.tx k

theorem Port.closeDmxFrame_inside {p : Nat} {q : Port} (h : q.Inside p) : q.closeDmxFrame.Inside p :=
  (Port.setDmxCur_inside (d := { q.dmxCur with updates := q.rxFrames + 1#32 }) h (h.dmx _)).congr rfl rfl rfl

/-- A character is written inside its buffer, because of the bounds on the index its state writes at. -/
theorem Port.charInState_inside {p : Nat} {q : Port} (h : q.Inside p) (hb : q.RxBounds) (t : Micros) (v : Byte) :
    (q.charInState t v).Inside p := by
  have hd : q.dmxCur.data.Inside (.dmxRing p q.dmxHead) := h.dmx _
  have hr : q.rdmCur.data.Inside (.rdmRing p q.rdmHead) := h.rdm _
  have hz : 0 < Config.rdmBufBytes := by decide
  have ha : q.rdmCur.cursor.toNat < Config.rdmBufBytes →
      (q.rdmCur.data.write q.rdmCur.cursor.toNat v).Inside (.rdmRing p q.rdmHead) := fun hc => hr.write hc v
  have hml := ((q.rdmRing.get q.rdmHead).data.read 2).isLt
  unfold Port.charInState
  split <;> rename_i hs
  · exact h
  · exact h
  · unfold Port.charInBreak
    split_ifs
    · exact (Port.setDmxCur_inside h (hd.write (i := 0) (Nat.zero_lt_succ 512) v)).congr rfl rfl rfl
    all_goals exact (Port.setRdmCur_inside h (hr.write (i := 0) hz v)).congr rfl rfl rfl
  · have hi : 1 + q.dmxCur.slots.toNat < (BufId.dmxRing p q.dmxHead).size := by
      have := hb.dmxData hs
      simp only [BufId.size, Config.dmxFrameBytes, Port.dmxCur]
      omega
    have := Port.setDmxCur_inside (d := { q.dmxCur with
      data := q.dmxCur.data.write (1 + q.dmxCur.slots.toNat) v, slots := q.dmxCur.slots + 1#10 }) h (hd.write hi v)
    unfold Port.charInDmxData
    dsimp only
    split_ifs
    · exact Port.closeDmxFrame_inside this
    · exact this
  · replace ha := ha (by have := hb.rdmData hs; simp only [Config.rdmBufBytes, Port.rdmCur]; omega)
    exact (Port.setRdmCur_inside h (r := RdmBuf.append v { q.rdmCur with cksum := q.rdmCur.cksum + v.zeroExtend 16 }) ha).congr
      rfl rfl rfl
  · replace ha := ha (by have := hb.checksumHigh hs; simp only [Config.rdmBufBytes, Port.rdmCur]; omega)
    exact (Port.setRdmCur_inside h (r := RdmBuf.append v q.rdmCur) ha).congr rfl rfl rfl
  · replace ha := ha (by have := hb.checksumLow hs; simp only [Config.rdmBufBytes, Port.rdmCur]; omega)
    unfold Port.charInChecksumLow
    dsimp only
    split_ifs <;> exact (Port.setRdmCur_inside h (r := RdmBuf.append v q.rdmCur) ha).congr rfl rfl rfl
  · replace ha := ha (by have := hb.discPreamble hs; simp only [Config.rdmBufBytes, Port.rdmCur]; omega)
    unfold Port.charInDiscPreamble
    dsimp only
    split_ifs
    · exact (Port.setRdmCur_inside h (r := { RdmBuf.append v q.rdmCur with discCnt := 0#4 }) ha).congr rfl rfl rfl
    · exact Port.setRdmCur_inside h (r := RdmBuf.append v q.rdmCur) ha
  · replace ha := ha (by have := hb.discUid hs; simp only [Config.rdmBufBytes, Port.rdmCur]; omega)
    unfold Port.charInDiscUid
    dsimp only
    split_ifs <;> exact (Port.setRdmCur_inside h ha).congr rfl rfl rfl
  · replace ha := ha (by have := hb.discChecksum hs; simp only [Config.rdmBufBytes, Port.rdmCur]; omega)
    unfold Port.charInDiscChecksum
    dsimp only
    split_ifs <;> exact (Port.setRdmCur_inside h ha).congr rfl rfl rfl

theorem Port.lineChar_inside {p : Nat} {q : Port} (h : q.Inside p) (hb : q.RxBounds) (t : Micros) (v : Byte) :
    (q.lineChar t v).Inside p := by
  unfold Port.lineChar
  split_ifs
  · refine Port.charInState_inside (q := { q with rxQuiet := 0#32, rxQuietArmed := true }) (h.congr rfl rfl rfl) ?_ t v
    exact ⟨hb.dmxData, hb.dmxPublished, hb.rdmData, hb.checksumHigh, hb.checksumLow, hb.discPreamble, hb.discUid,
      hb.discChecksum, hb.rdmPublished⟩
  · exact h

theorem Port.idleTimer_inside {p : Nat} {q : Port} (h : q.Inside p) : q.idleTimer.Inside p := by
  unfold Port.idleTimer Port.idleTimeout
  dsimp only
  split_ifs
  · exact Port.closeDmxFrame_inside (h.congr rfl rfl rfl)
  · exact h.congr rfl rfl rfl
  · exact h.congr rfl rfl rfl
  · exact h

/-- Every buffer of a block after reset stands in its place and lists no byte. -/
theorem State.afterReset_inside {n k p : Nat} {q : Port} (h : (State.afterReset n k).ports[p]? = some q) : q.Inside p := by
  simp only [State.afterReset, List.getElem?_map, Option.map_eq_some_iff] at h
  obtain ⟨p', hp, rfl⟩ := h
  have : p' = p := by
    have := List.getElem?_eq_some_iff.mp hp
    obtain ⟨hl, e⟩ := this
    simpa using e.symm
  subst this
  refine ⟨fun k => ?_, fun k => ?_, fun k => ?_⟩ <;> simp [Port.reset, Buffer.Inside.unwritten]

end Sys2Proof.Machine
end

