-- ==== Sys2Proof/Laws/MemoryWf.lean ====
section
/-! SUPPORT. Every operation that writes a buffer keeps the canonical form of memory (log entry 4). -/

namespace Sys2Proof.Machine

theorem Port.MemoryWf.congr {q r : Port} (h : q.MemoryWf) (ht : r.txBuf = q.txBuf) (hd : r.dmxRing = q.dmxRing)
    (hr : r.rdmRing = q.rdmRing) : r.MemoryWf :=
  ⟨ht ▸ h.tx, hd ▸ h.dmx, hr ▸ h.rdm⟩

theorem Port.setDmxCur_memoryWf {q : Port} (h : q.MemoryWf) {d : DmxRecord} (hd : d.data.cells.wf) :
    (q.setDmxCur d).MemoryWf := by
  refine ⟨h.tx, fun i => ?_, h.rdm⟩
  simp only [Port.setDmxCur, Bank.get_put]
  split
  · exact hd
  · exact h.dmx i

theorem Port.setRdmCur_memoryWf {q : Port} (h : q.MemoryWf) {r : RdmBuf} (hr : r.data.cells.wf) :
    (q.setRdmCur r).MemoryWf := by
  refine ⟨h.tx, h.dmx, fun i => ?_⟩
  simp only [Port.setRdmCur, Bank.get_put]
  split
  · exact hr
  · exact h.rdm i

theorem Buffer.write_wf {b : Buffer} (h : b.cells.wf) (i : Nat) (v : Byte) : (b.write i v).cells.wf := Buffer.store_wf h i [v]

theorem RdmBuf.append_wf {r : RdmBuf} (h : r.data.cells.wf) (v : Byte) : (r.append v).data.cells.wf := Buffer.write_wf h _ v

theorem Port.enqueueFrame_memoryWf {q : Port} (h : q.MemoryWf) (n : Nat) (src : Buffer) : (q.enqueueFrame n src).MemoryWf := by
  refine ⟨fun k => ?_, h.dmx, h.rdm⟩
  simp only [Port.enqueueFrame, Bank.get_put]
  split
  · exact Buffer.store_wf (h.tx _) _ _
  · exact h.tx k

theorem Port.closeDmxFrame_memoryWf {q : Port} (h : q.MemoryWf) : q.closeDmxFrame.MemoryWf :=
  (Port.setDmxCur_memoryWf (d := { q.dmxCur with updates := q.rxFrames + 1#32 }) h (h.dmx _)).congr rfl rfl rfl

theorem Port.charInState_memoryWf {q : Port} (h : q.MemoryWf) (t : Micros) (v : Byte) : (q.charInState t v).MemoryWf := by
  have hd : q.dmxCur.data.cells.wf := h.dmx _
  have hr : q.rdmCur.data.cells.wf := h.rdm _
  have ha : (RdmBuf.append v q.rdmCur).data.cells.wf := RdmBuf.append_wf hr v
  unfold Port.charInState
  split
  · exact h
  · exact h
  · unfold Port.charInBreak
    split_ifs
    · exact (Port.setDmxCur_memoryWf h (Buffer.write_wf hd 0 v)).congr rfl rfl rfl
    all_goals exact (Port.setRdmCur_memoryWf h (Buffer.write_wf hr 0 v)).congr rfl rfl rfl
  · unfold Port.charInDmxData
    have := Port.setDmxCur_memoryWf (d := { q.dmxCur with
      data := q.dmxCur.data.write (1 + q.dmxCur.slots.toNat) v, slots := q.dmxCur.slots + 1#10 }) h (Buffer.write_wf hd _ v)
    dsimp only
    split_ifs
    · exact Port.closeDmxFrame_memoryWf this
    · exact this
  · exact (Port.setRdmCur_memoryWf h (RdmBuf.append_wf (r := { q.rdmCur with cksum := q.rdmCur.cksum + v.zeroExtend 16 }) hr v)).congr rfl rfl rfl
  · exact (Port.setRdmCur_memoryWf h ha).congr rfl rfl rfl
  · unfold Port.charInChecksumLow
    dsimp only
    split_ifs <;> exact (Port.setRdmCur_memoryWf h ha).congr rfl rfl rfl
  · unfold Port.charInDiscPreamble
    dsimp only
    split_ifs
    · exact (Port.setRdmCur_memoryWf h (r := { RdmBuf.append v q.rdmCur with discCnt := 0#4 }) ha).congr rfl rfl rfl
    · exact (Port.setRdmCur_memoryWf h ha)
  · unfold Port.charInDiscUid
    dsimp only
    split_ifs <;> exact (Port.setRdmCur_memoryWf h (Buffer.write_wf hr _ v)).congr rfl rfl rfl
  · unfold Port.charInDiscChecksum
    dsimp only
    split_ifs <;> exact (Port.setRdmCur_memoryWf h (Buffer.write_wf hr _ v)).congr rfl rfl rfl

theorem Port.lineChar_memoryWf {q : Port} (h : q.MemoryWf) (t : Micros) (v : Byte) : (q.lineChar t v).MemoryWf := by
  unfold Port.lineChar
  split_ifs
  · refine Port.charInState_memoryWf ?_ t v
    exact h.congr rfl rfl rfl
  · exact h

theorem Port.idleTimer_memoryWf {q : Port} (h : q.MemoryWf) : q.idleTimer.MemoryWf := by
  unfold Port.idleTimer Port.idleTimeout
  dsimp only
  split_ifs
  · exact Port.closeDmxFrame_memoryWf (h.congr rfl rfl rfl)
  · exact h.congr rfl rfl rfl
  · exact h.congr rfl rfl rfl
  · exact h

/-- A change of one port that keeps its memory canonical keeps the block's. -/
theorem State.updPort_memoryWf {s : State} (h : s.MemoryWf) (p : Nat) {f : Port → Port}
    (hf : ∀ q : Port, q.MemoryWf → (f q).MemoryWf) : (s.updPort p f).MemoryWf := by
  refine ⟨h.pbuf, h.rbuf, fun q hq => ?_⟩
  rcases State.mem_updPort hq with hq | ⟨q₀, _, hq₀, rfl⟩
  · exact h.ports q hq
  · exact hf q₀ (h.ports q₀ hq₀)

theorem State.eachPort_memoryWf {s : State} (h : s.MemoryWf) {f : Port → Port}
    (hf : ∀ q : Port, q.MemoryWf → (f q).MemoryWf) : (s.eachPort f).MemoryWf := by
  refine ⟨h.pbuf, h.rbuf, fun q hq => ?_⟩
  obtain ⟨q₀, hq₀, rfl⟩ := List.mem_map.mp hq
  exact hf q₀ (h.ports q₀ hq₀)

theorem State.storePbuf_memoryWf {s : State} (h : s.MemoryWf) (i : Nat) (bs : List Byte) : (s.storePbuf i bs).MemoryWf :=
  ⟨Buffer.store_wf h.pbuf i bs, h.rbuf, h.ports⟩

theorem State.storeRbuf_memoryWf {s : State} (h : s.MemoryWf) (i : Nat) (bs : List Byte) : (s.storeRbuf i bs).MemoryWf :=
  ⟨h.pbuf, Buffer.store_wf h.rbuf i bs, h.ports⟩

/-- The canonical form says nothing of the registers. -/
theorem State.MemoryWf.congr {s t : State} (h : s.MemoryWf) (hp : t.pbuf = s.pbuf) (hr : t.rbuf = s.rbuf)
    (hq : t.ports = s.ports) : t.MemoryWf :=
  ⟨hp ▸ h.pbuf, hr ▸ h.rbuf, hq ▸ h.ports⟩

/-- A buffer that nothing has written is canonical, so memory is after every reset. -/
theorem State.afterReset_memoryWf (n k : Nat) : (State.afterReset n k).MemoryWf := by
  refine ⟨List.Pairwise.nil, List.Pairwise.nil, fun q hq => ?_⟩
  obtain ⟨p, _, rfl⟩ := List.mem_map.mp hq
  refine ⟨fun k => ?_, fun k => ?_, fun k => ?_⟩ <;> simp [Port.reset, Buffer.unwritten]

end Sys2Proof.Machine
end

