-- ==== Sys2Proof/Laws/PerInstr.lean ====
section
/-! SUPPORT. The family of statements made per instruction: the word the encoder writes for a command matches the row of
30_encoding.md R113 that the table gives the command, whatever its operands. -/

namespace Sys2Proof

/-- Masking a word masks its three fields. -/
theorem fields_and (op mo : BitVec 8) (port mp : BitVec 4) (imm mi : BitVec 20) :
    (op ++ port ++ imm) &&& (mo ++ mp ++ mi) = (op &&& mo) ++ (port &&& mp) ++ (imm &&& mi) := by
  simp only [← BitVec.and_append]

namespace Laws.TableMatch

/-- The encoding of `i` has the match of its row at the bits of its row's mask. -/
def Statement (i : Instr) : Prop := encode i &&& i.row.mask = i.row.pattern

theorem nop : Statement .nop := by rfl

theorem setBreak (us : BitVec 20) : Statement (.setBreak us) := by
  show (0x01#8 ++ 0#4 ++ us) &&& (0xFF#8 ++ 0xF#4 ++ 0#20) = _
  rw [fields_and, BitVec.and_zero]; rfl

theorem setMab (us : BitVec 20) : Statement (.setMab us) := by
  show (0x02#8 ++ 0#4 ++ us) &&& (0xFF#8 ++ 0xF#4 ++ 0#20) = _
  rw [fields_and, BitVec.and_zero]; rfl

theorem setPeriod (us : BitVec 20) : Statement (.setPeriod us) := by
  show (0x03#8 ++ 0#4 ++ us) &&& (0xFF#8 ++ 0xF#4 ++ 0#20) = _
  rw [fields_and, BitVec.and_zero]; rfl

/-- A ten-bit operand lies below the must-be-zero bits of its row. -/
theorem ten_bits_masked (n : BitVec 10) : (0#10 ++ n) &&& 0xFFC00#20 = 0#20 := by
  have h := BitVec.and_append (x₁ := 0#10) (x₂ := 0x3FF#10) (y₁ := n) (y₂ := 0#10)
  rw [BitVec.and_zero] at h
  exact h

theorem setSlots (n : BitVec 10) : Statement (.setSlots n) := by
  show (0x04#8 ++ 0#4 ++ (0#10 ++ n)) &&& (0xFF#8 ++ 0xF#4 ++ 0xFFC00#20) = _
  rw [fields_and, ten_bits_masked]; rfl

theorem setDir (port : BitVec 4) (e : BitVec 1) (d : BitVec 2) : Statement (.setDir port e d) := by
  show (0x10#8 ++ port ++ (0#17 ++ e ++ d)) &&& (0xFF#8 ++ 0#4 ++ (0x1FFFF#17 ++ 0#1 ++ 0#2)) = _
  rw [fields_and, BitVec.and_append, BitVec.and_append]
  simp only [BitVec.and_zero]; rfl

/-- The rows with a port operand and a ten-bit operand. -/
theorem port_len (op : BitVec 8) (port : BitVec 4) (len : BitVec 10) :
    (op ++ port ++ (0#10 ++ len)) &&& (0xFF#8 ++ 0#4 ++ 0xFFC00#20) = op ++ 0#4 ++ 0#20 := by
  rw [fields_and, ten_bits_masked, BitVec.and_zero]
  exact congrArg (fun o => o ++ 0#4 ++ 0#20) (BitVec.and_allOnes (x := op))

/-- The rows with a port operand alone. -/
theorem port_only (op : BitVec 8) (port : BitVec 4) :
    (op ++ port ++ 0#20) &&& (0xFF#8 ++ 0#4 ++ 0xFFFFF#20) = op ++ 0#4 ++ 0#20 := by
  rw [fields_and, BitVec.and_zero]
  exact congrArg (fun o => o ++ 0#4 ++ 0#20) (BitVec.and_allOnes (x := op))

theorem txdata (port : BitVec 4) (len : BitVec 10) : Statement (.txdata port len) := port_len 0x11#8 port len
theorem getDmx (port : BitVec 4) : Statement (.getDmx port) := port_only 0x12#8 port
theorem getUps (port : BitVec 4) : Statement (.getUps port) := port_only 0x13#8 port
theorem rdmSendraw (port : BitVec 4) (len : BitVec 10) : Statement (.rdmSendraw port len) := port_len 0x20#8 port len
theorem rdmSend (port : BitVec 4) : Statement (.rdmSend port) := port_only 0x21#8 port
theorem rdmRecv (port : BitVec 4) : Statement (.rdmRecv port) := port_only 0x22#8 port
theorem rdmRecvTo (port : BitVec 4) : Statement (.rdmRecvTo port) := port_only 0x23#8 port
theorem rdmRespondRaw (port : BitVec 4) (len : BitVec 10) : Statement (.rdmRespondRaw port len) :=
  port_len 0x24#8 port len
theorem rdmRespondDisc (port : BitVec 4) (len : BitVec 10) : Statement (.rdmRespondDisc port len) :=
  port_len 0x25#8 port len

end Laws.TableMatch

end Sys2Proof
end

