-- ==== Sys2Proof/Laws/Step.lean ====
section
/-! SUPPORT. What a step can be, said once, and the induction it gives: a predicate that each kind of event keeps is kept by
every step (70_reset_and_hazards.md R371). -/

namespace Sys2Proof.Machine

/-- A step is the event at the head of the inputs, or a tick when there is none, on the state without that event. -/
theorem step_cases {s t : State} (h : step s = .next t) :
    ∃ e rest, (s.inputs = e :: rest ∨ (s.inputs = [] ∧ e = .tick ∧ rest = [])) ∧
      runEvent e { s with inputs := rest } = .next t := by
  unfold step at h
  split at h
  · next hi =>
    refine ⟨.tick, [], .inr ⟨hi, rfl, rfl⟩, ?_⟩
    rw [← hi]
    exact h
  · next e rest hi => exact ⟨e, rest, .inl hi, h⟩

theorem step_cons {s : State} {e : Event} {rest : List Event} (h : s.inputs = e :: rest) :
    step s = runEvent e { s with inputs := rest } := by simp [step, h]

/-- A write that the block stores nowhere: refused, ignored, or read-only. -/
def Answered (s t : State) : Prop :=
  ∃ (err : Bool) (rdata : Word) (ovr : Bool), t = { s with busErr := err, busRdata := rdata, ovr := ovr }

/-- The effects of a bus write (20_memory.md R83). -/
inductive WriteEffect (v : Word) (s : State) : State → Prop where
  | answered {t : State} (h : Answered s t) : WriteEffect v s t
  | arg (hb : s.busy = false) : WriteEffect v s { s with busErr := false, arg := v }
  | pbuf (hb : s.busy = false) (i : Nat) (hi : i + 4 ≤ Config.pbufBytes) :
      WriteEffect v s (State.storePbuf i (wordBytes v) { s with busErr := false })
  | rejected (hb : s.busy = false) (e : ErrCode) :
      WriteEffect v s (State.finish e (State.load v { s with busErr := false }))
  | command (hb : s.busy = false) (i : Instr) (hd : decode v = .ok i) {t : State}
      (h : CommandEffect i (State.load v { s with busErr := false }) t) : WriteEffect v s t

/-- Every bus write answers a next state, which is one of the effects above. -/
theorem hostWrite_effect (addr : BitVec 13) (v : Word) (s : State) :
    ∃ t, hostWrite addr v s = .next t ∧ WriteEffect v s t := by
  unfold hostWrite
  dsimp only
  split_ifs with h1 h2 hb h3 hb h4 hb
  · exact ⟨_, rfl, .answered ⟨true, 0#32, s.ovr, rfl⟩⟩
  · exact ⟨_, rfl, .answered ⟨false, s.busRdata, true, rfl⟩⟩
  · unfold accept
    split
    · next i hd =>
      obtain ⟨t, ht, hc⟩ := exec_effect i (State.load v { s with busErr := false })
      exact ⟨t, ht, .command (by simpa using hb) i hd hc⟩
    · exact ⟨_, rfl, .rejected (by simpa using hb) _⟩
  · exact ⟨_, rfl, .answered ⟨false, s.busRdata, true, rfl⟩⟩
  · exact ⟨_, rfl, .arg (by simpa using hb)⟩
  · exact ⟨_, rfl, .answered ⟨false, s.busRdata, true, rfl⟩⟩
  · refine ⟨_, rfl, .pbuf (by simpa using hb) _ ?_⟩
    have h : addr.toNat % 4 = 0 := by simpa [aligned] using h1
    simp only [Config.pbufBytes]
    omega
  · exact ⟨_, rfl, .answered ⟨false, s.busRdata, s.ovr, rfl⟩⟩

theorem hostWrite_cases {addr : BitVec 13} {v : Word} {s t : State} (h : hostWrite addr v s = .next t) : WriteEffect v s t := by
  obtain ⟨u, hu, hc⟩ := hostWrite_effect addr v s
  rw [hu] at h
  exact Host.Outcome.next.inj h ▸ hc

theorem hostRead_answered (addr : BitVec 13) (s : State) : Answered s (s.hostRead addr) := by
  unfold State.hostRead
  split_ifs
  · exact ⟨false, _, s.ovr, rfl⟩
  · exact ⟨true, 0#32, s.ovr, rfl⟩

/-- A predicate that every kind of event keeps is kept by every step. -/
theorem step_keeps {P : State → Prop}
    (hinputs : ∀ s rest, P s → P { s with inputs := rest })
    (hanswered : ∀ s t, P s → Answered s t → P t)
    (harg : ∀ s v, P s → s.busy = false → P { s with busErr := false, arg := v })
    (hpbuf : ∀ s i v, P s → s.busy = false → i + 4 ≤ Config.pbufBytes →
      P (State.storePbuf i (wordBytes v) { s with busErr := false }))
    (hrejected : ∀ s v e, P s → s.busy = false → P (State.finish e (State.load v { s with busErr := false })))
    (hcommand : ∀ s t v i, P s → s.busy = false → decode v = .ok i →
      CommandEffect i (State.load v { s with busErr := false }) t → P t)
    (hreset : ∀ s, P s → P s.performReset)
    (htick : ∀ s, P s → P s.tick)
    (hline : ∀ s p f, P s → (f = Port.lineError ∨ f = Port.lineMark ∨ ∃ v, f = Port.lineChar s.micros v) → P (s.updPort p f))
    {s t : State} (hs : P s) (h : step s = .next t) : P t := by
  obtain ⟨e, rest, _, he⟩ := step_cases h
  replace hs := hinputs s rest hs
  generalize ({ s with inputs := rest } : State) = u at hs he
  cases e with
  | reset => exact Host.Outcome.next.inj he ▸ hreset u hs
  | tick => exact Host.Outcome.next.inj he ▸ htick u hs
  | hostRead addr => exact Host.Outcome.next.inj he ▸ hanswered u _ hs (hostRead_answered addr u)
  | hostWrite addr v =>
    cases hostWrite_cases he with
    | answered ha => exact hanswered u _ hs ha
    | arg hb => exact harg u v hs hb
    | pbuf hb i hi => exact hpbuf u i v hs hb hi
    | rejected hb e => exact hrejected u v e hs hb
    | command hb i hd hc => exact hcommand u t v i hs hb hd hc
  | lineError p => exact Host.Outcome.next.inj he ▸ hline u p _ hs (.inl rfl)
  | lineMark p => exact Host.Outcome.next.inj he ▸ hline u p _ hs (.inr (.inl rfl))
  | lineChar p v => exact Host.Outcome.next.inj he ▸ hline u p _ hs (.inr (.inr ⟨v, rfl⟩))

/-- A predicate that every substep keeps is kept by a tick. -/
theorem tick_keeps {P : State → Prop}
    (h1 : ∀ s, P s → P { s with micros := s.micros + 1#32 })
    (h2 : ∀ s, P s → P (s.eachPort Port.charEnd))
    (h3 : ∀ s, P s → P (s.eachPort Port.idleTimer))
    (h4 : ∀ s, P s → P s.statsCountdown)
    (h5 : ∀ s, P s → P s.schedCountdown)
    (h6 : ∀ s, P s → P (s.eachPort Port.dmaTransfer))
    (h7 : ∀ s, P s → P s.commandStep)
    (h8 : ∀ s, P s → P (s.eachPort (Port.charStart s.micros)))
    {s : State} (hs : P s) : P s.tick :=
  h8 _ (h7 _ (h6 _ (h5 _ (h4 _ (h3 _ (h2 _ (h1 _ hs)))))))

/-- The states between the substeps of a tick, by name: a proof about a tick opens it with this and unfolds one substep at a
time, instead of the nested updates. -/
theorem tick_substeps (s : State) : ∃ t1 t2 t3 t4 t5 t6 t7 : State,
    t1 = { s with micros := s.micros + 1#32 } ∧ t2 = t1.eachPort Port.charEnd ∧ t3 = t2.eachPort Port.idleTimer ∧
    t4 = t3.statsCountdown ∧ t5 = t4.schedCountdown ∧ t6 = t5.eachPort Port.dmaTransfer ∧ t7 = t6.commandStep ∧
    s.tick = t7.eachPort (Port.charStart t7.micros) :=
  ⟨_, _, _, _, _, _, _, rfl, rfl, rfl, rfl, rfl, rfl, rfl, rfl⟩

/-- The scheduler countdown by the value it counts from. -/
theorem schedCountdown_eq (s : State) : s.schedCountdown =
    if s.schedTimer = 1#32 then State.schedTick { s with schedTimer := 0#32 }
    else { s with schedTimer := s.schedTimer - 1#32 } := by
  unfold State.schedCountdown
  by_cases h : s.schedTimer = 1#32
  · simp [h]
  · have h' : s.schedTimer - 1#32 ≠ 0#32 := by
      intro hc
      apply h
      bv_omega
    simp [h, h']

/-- With no command in progress the command engine does nothing. -/
theorem commandStep_of_none {s : State} (h : s.cmdPhase = .none) : s.commandStep = s := by
  unfold State.commandStep
  split
  · rfl
  · simp [h]

end Sys2Proof.Machine
end

