-- ==== Sys2Proof/Laws/Timing.lean ====
section
/-! SUPPORT. `maxlen` and the shared period (40_timing_scheduler.md R144): the computed maximum is the one the rule describes,
it is unique, and the recomputed period is the period for it. -/

namespace Sys2Proof.Machine

theorem foldr_max_ge (l : List Port) {q : Port} (h : q ∈ l) :
    q.pendingSlots ≤ l.foldr (fun q m => max q.pendingSlots m) 0 := by
  induction l with
  | nil => cases h
  | cons a l ih =>
    rcases List.mem_cons.mp h with rfl | h
    · exact Nat.le_max_left _ _
    · exact Nat.le_trans (ih h) (Nat.le_max_right _ _)

theorem foldr_max_attained (l : List Port) :
    l.foldr (fun q m => max q.pendingSlots m) 0 = 0 ∨
      ∃ q ∈ l, q.pendingSlots = l.foldr (fun q m => max q.pendingSlots m) 0 := by
  induction l with
  | nil => exact .inl rfl
  | cons a l ih =>
    simp only [List.foldr_cons]
    rcases Nat.le_total (l.foldr (fun q m => max q.pendingSlots m) 0) a.pendingSlots with hle | hle
    · exact .inr ⟨a, List.mem_cons_self, (Nat.max_eq_left hle).symm⟩
    · rw [Nat.max_eq_right hle]
      rcases ih with h | ⟨q, hq, h⟩
      · exact .inl h
      · exact .inr ⟨q, List.mem_cons_of_mem _ hq, h⟩

/-- The computed `maxlen` is the maximum of R144. -/
theorem isMaxlen_maxlen (s : State) : IsMaxlen s s.maxlen := by
  constructor
  · intro q hq
    have h := foldr_max_ge s.ports hq
    simp only [Port.pendingSlots, Port.inflight] at h
    change max q.curLen.toNat (if q.stgValid then q.stgLen.toNat - 1 else 0) ≤ s.maxlen at h
    refine ⟨by omega, fun hv => ?_⟩
    rw [if_pos hv] at h
    omega
  · rcases foldr_max_attained s.ports with h | ⟨q, hq, h⟩
    · exact .inl h
    · change q.pendingSlots = s.maxlen at h
      simp only [Port.pendingSlots, Port.inflight] at h
      by_cases hv : q.stgValid
      · rw [if_pos hv] at h
        refine .inr ⟨q, hq, ?_⟩
        rcases Nat.le_total q.curLen.toNat (q.stgLen.toNat - 1) with hc | hc
        · exact .inr ⟨hv, by omega⟩
        · exact .inl (by omega)
      · rw [if_neg hv] at h
        exact .inr ⟨q, hq, .inl (by omega)⟩

/-- There is one `maxlen`. -/
theorem IsMaxlen.unique {s : State} {m n : Nat} (hm : IsMaxlen s m) (hn : IsMaxlen s n) : m = n := by
  have le : ∀ {a b : Nat}, IsMaxlen s a → IsMaxlen s b → a ≤ b := by
    intro a b ha hb
    rcases ha.2 with rfl | ⟨q, hq, h | ⟨hv, h⟩⟩
    · exact Nat.zero_le _
    · exact h ▸ (hb.1 q hq).1
    · exact h ▸ (hb.1 q hq).2 hv
  exact Nat.le_antisymm (le hm hn) (le hn hm)

theorem isMaxlen_iff {s : State} {m : Nat} : IsMaxlen s m ↔ m = s.maxlen :=
  ⟨fun h => h.unique (isMaxlen_maxlen s), fun h => h ▸ isMaxlen_maxlen s⟩

/-- `maxlen` reads the ports only. -/
theorem isMaxlen_congr {s t : State} (h : s.ports = t.ports) (m : Nat) : IsMaxlen s m ↔ IsMaxlen t m := by
  simp [IsMaxlen, h]

theorem maxlen_congr {s t : State} (h : s.ports = t.ports) : s.maxlen = t.maxlen := by simp [State.maxlen, h]

/-- The bound every `maxlen` keeps when the lengths of the ports keep theirs. -/
theorem maxlen_le {s : State} (h : ∀ q ∈ s.ports, q.curLen.toNat ≤ 512 ∧ (q.stgValid = true → q.stgLen.toNat ≤ 513)) :
    s.maxlen ≤ 512 := by
  rcases (isMaxlen_maxlen s).2 with h0 | ⟨q, hq, h1 | ⟨hv, h1⟩⟩
  · omega
  · have := (h q hq).1; omega
  · have := (h q hq).2 hv; omega

theorem periodUs_eq (s : State) : s.periodUs = periodOf s.breakTime.toNat s.mabTime.toNat s.periodReq.toNat s.maxlen := by
  simp only [State.periodUs, State.packetTime, periodOf]

/-- `period <- Period()` stores the period for `maxlen` and changes nothing else. -/
theorem recomputePeriod_eq (s : State) : s.recomputePeriod = { s with period := s.periodFor s.maxlen } := by
  simp only [State.recomputePeriod, State.periodFor, periodUs_eq]

theorem periodFor_congr {s t : State} (hb : s.breakTime = t.breakTime) (hm : s.mabTime = t.mabTime)
    (hr : s.periodReq = t.periodReq) (m : Nat) : s.periodFor m = t.periodFor m := by
  simp [State.periodFor, hb, hm, hr]

/-- The period fits its register for every legal `maxlen`. -/
theorem periodFor_toNat (s : State) {m : Nat} (h : m ≤ 512) :
    (s.periodFor m).toNat = periodOf s.breakTime.toNat s.mabTime.toNat s.periodReq.toNat m := by
  have h1 := s.breakTime.isLt
  have h2 := s.mabTime.isLt
  have h3 := s.periodReq.isLt
  simp only [State.periodFor, BitVec.toNat_ofNat]
  apply Nat.mod_eq_of_lt
  simp only [periodOf]
  omega

end Sys2Proof.Machine
end

