-- ==== Sys2Proof/Tests/Slice0.lean ====
section
/-! SUPPORT. The model's own tests. Expected values come from the spec: its opcode table (30_encoding.md R113) and the vectors of
95_test_vectors.md, named in each comment. The last part gives, for every statement with hypotheses, a concrete state and
operands that meet them together. -/

namespace Sys2Proof.Tests

open Sys2Proof.Machine

/-! ### Helpers -/

/-- The state after a step, tested. -/
def after (s : State) (f : State → Bool) : Bool :=
  match step s with
  | .next t => f t
  | .fault _ => false
  | .refused _ => false

/-- A block of one port. -/
def one (q : Port) : State := { State.reset with ports := [q] }

/-- Port 0 after reset. -/
def q0 : Port := Port.reset 0 0

/-- Port 0 receiving. -/
def receiving : Port := { q0 with dir := .input, enableData := true }

/-- Port 0 receiving, in a receive state. -/
def receivingIn (x : RxState) : Port := { receiving with rxState := x }

/-- Port 0 turned to OUTPUT with data off, as the RDM sends require. -/
def quietOutput : Port := { q0 with dir := .output }

/-- Port 0 sending DMX. -/
def sending : Port := { q0 with dir := .output, enableData := true }

/-- Port 0 with one published packet and one published frame. -/
def holding : Port := { receiving with rdmHead := 1#3, dmxHead := 1#2 }

/-- `s` with one event pending. -/
def pending (e : Event) (s : State) : State := { s with inputs := [e] }

/-- `s` with a command in progress. -/
def inPhase (ph : CmdPhase) (w : Word) (s : State) : State := { s with cmdPhase := ph, busy := true, cmdWord := w }

/-- The first bytes of the request packet of 95_test_vectors.md part 1. -/
def requestHead : List Byte :=
  [0xCC#8, 0x01#8, 0x18#8, 0x12#8, 0x34#8, 0x56#8, 0x78#8, 0x9A#8, 0xBC#8, 0xCB#8, 0xA9#8, 0x87#8]

/-- The rest of the request packet of 95_test_vectors.md part 1. -/
def requestTail : List Byte :=
  [0x65#8, 0x43#8, 0x21#8, 0x00#8, 0x01#8, 0x00#8, 0x00#8, 0x00#8, 0x20#8, 0x00#8, 0x60#8, 0x00#8]

/-- A block with the request packet in PBUF. -/
def withRequest (s : State) : State := s.storePbuf 0 (requestHead ++ requestTail)

/-! ### Well-formedness: an ill-formed term for each check -/

theorem test_wf_port_refused : WellFormed (.getDmx 4#4) = false := by decide
theorem test_wf_rawLength_zero_refused : WellFormed (.rdmSendraw 0#4 0#10) = false := by decide
theorem test_wf_rawLength_513_refused : WellFormed (.rdmRespondRaw 0#4 513#10) = false := by decide
theorem test_wf_slots_zero_refused : WellFormed (.setSlots 0#10) = false := by decide
theorem test_wf_slots_513_refused : WellFormed (.setSlots 513#10) = false := by decide
theorem test_wf_direction_refused : WellFormed (.setDir 0#4 1#1 3#2) = false := by decide
theorem test_wf_accepts : WellFormed (.rdmRespondDisc 3#4 512#10) = true := by decide

/-! ### Decoding: opcode, port and imm of each row of R113 written out -/

theorem test_decode_nop : decode (0x00#8 ++ 0x0#4 ++ 0x00000#20) = .ok .nop := by decide
theorem test_decode_setBreak : decode (0x01#8 ++ 0x0#4 ++ 0xFFFFF#20) = .ok (.setBreak 1048575#20) := by decide
theorem test_decode_setMab : decode (0x02#8 ++ 0x0#4 ++ 0x0000C#20) = .ok (.setMab 12#20) := by decide
theorem test_decode_setPeriod : decode (0x03#8 ++ 0x0#4 ++ 0x061A8#20) = .ok (.setPeriod 25000#20) := by decide
theorem test_decode_setSlots : decode (0x04#8 ++ 0x0#4 ++ 0x003FF#20) = .ok (.setSlots 1023#10) := by decide
theorem test_decode_setDir : decode (0x10#8 ++ 0x2#4 ++ 0b00000000000000000_1_10#20) = .ok (.setDir 2#4 1#1 2#2) := by
  decide
theorem test_decode_setDir_disable : decode (0x10#8 ++ 0xF#4 ++ 0x00001#20) = .ok (.setDir 15#4 0#1 1#2) := by decide
theorem test_decode_txdata : decode (0x11#8 ++ 0x3#4 ++ 0x003FF#20) = .ok (.txdata 3#4 1023#10) := by decide
theorem test_decode_getDmx : decode (0x12#8 ++ 0x1#4 ++ 0x00000#20) = .ok (.getDmx 1#4) := by decide
theorem test_decode_getUps : decode (0x13#8 ++ 0x1#4 ++ 0x00000#20) = .ok (.getUps 1#4) := by decide
theorem test_decode_rdmSendraw : decode (0x20#8 ++ 0x0#4 ++ 0x0001A#20) = .ok (.rdmSendraw 0#4 26#10) := by decide
theorem test_decode_rdmSend : decode (0x21#8 ++ 0x0#4 ++ 0x00000#20) = .ok (.rdmSend 0#4) := by decide
theorem test_decode_rdmRecv : decode (0x22#8 ++ 0x2#4 ++ 0x00000#20) = .ok (.rdmRecv 2#4) := by decide
theorem test_decode_rdmRecvTo : decode (0x23#8 ++ 0x1#4 ++ 0x00000#20) = .ok (.rdmRecvTo 1#4) := by decide
theorem test_decode_rdmRespondRaw : decode (0x24#8 ++ 0x2#4 ++ 0x0001A#20) = .ok (.rdmRespondRaw 2#4 26#10) := by decide
theorem test_decode_rdmRespondDisc : decode (0x25#8 ++ 0x2#4 ++ 0x00018#20) = .ok (.rdmRespondDisc 2#4 24#10) := by
  decide

/-- 0x05, 0x26 and 0xFF are reserved (R113, R116). -/
theorem test_decode_reserved :
    [0x05F00001#32, 0x0FFFFFFF#32, 0x14000000#32, 0x26000000#32, 0xFF000000#32].map decode
      = List.replicate 5 (.error .reservedOpcode) := by decide

/-- Must-be-zero bits (R115): vectors V6, V7, V9, V13, V16, V17. -/
theorem test_decode_must_be_zero :
    [0x00000001#32, 0x01100000#32, 0x12F00001#32, 0x04000400#32, 0x10000008#32, 0x11000400#32].map decode
      = [.error .globalImm, .error .globalPort, .error (.portedImm 15#4), .error .globalImm, .error (.portedImm 0#4),
        .error (.portedImm 0#4)] := by decide

/-- The encoder writes back the words of 30_encoding.md R113's rows. -/
theorem test_encode_words :
    [encode .nop, encode (.setBreak 176#20), encode (.setDir 1#4 1#1 1#2), encode (.rdmRespondDisc 1#4 24#10)]
      = [0x00000000#32, 0x010000B0#32, 0x10100005#32, 0x25100018#32] := by decide

theorem test_decodeTableWord : decodeTableWord 32 0x2410001A = some (.rdmRespondRaw 1#4 26#10) := by decide

/-! ### One step of each command -/

/-- V1. -/
theorem test_nop : after (State.reset.withFetchWord 32 0x00000000) (fun s => s.statusWord = 0x0000#32) = true := by decide

/-- V2 and V5: the opcode is tested first. -/
theorem test_reserved_opcode :
    after (State.reset.withFetchWord 32 0x05F00001) (fun s => s.statusWord = 0x0510#32) = true := by decide

/-- V9: the port is tested before the operand. -/
theorem test_port_before_operand :
    after (State.reset.withFetchWord 32 0x12F00001) (fun s => s.statusWord = 0x1220#32) = true := by decide

/-- V7. -/
theorem test_global_port :
    after (State.reset.withFetchWord 32 0x01100000) (fun s => s.statusWord = 0x0130#32) = true := by decide

/-- V111: raised to the minimum. -/
theorem test_setBreak_minimum :
    after (State.reset.withFetchWord 32 0x01000032) (fun s => s.breakTime = 92#20 ∧ s.statusWord = 0x0100#32) = true := by
  decide

/-- V113. -/
theorem test_setBreak_largest :
    after (State.reset.withFetchWord 32 0x010FFFFF) (fun s => s.breakTime = 1048575#20 ∧ s.period = 1048631#32) = true := by
  decide

/-- V115: raised to the minimum. -/
theorem test_setMab_minimum : after (State.reset.withFetchWord 32 0x02000005) (fun s => s.mabTime = 12#20) = true := by
  decide

/-- V116. -/
theorem test_setPeriod :
    after (State.reset.withFetchWord 32 0x030061A8) (fun s => s.periodReq = 25000#20 ∧ s.period = 25000#32) = true := by
  decide

/-- V118. -/
theorem test_setSlots :
    after (State.reset.withFetchWord 32 0x04000018) (fun s => s.slots = 24#10 ∧ s.period = 1204#32) = true := by decide

/-- V11. -/
theorem test_setSlots_refused :
    after (State.reset.withFetchWord 32 0x04000258) (fun s => s.slots = 512#10 ∧ s.statusWord = 0x0430#32) = true := by
  decide

/-- R292's table, row IDLE, 0, request 0x10000006, at micros = 5000. -/
theorem test_setDir_output :
    after ({ one q0 with micros := 5000#32 }.withFetchWord 32 0x10000006)
      (fun s => s.ports.map (fun q => (q.pstatWord, q.wire)) = [(0x6#32, [.oeOn 5000#32])]) = true := by decide

/-- R292's table, row OUTPUT, 1, request 0x10000001: the mailbox is held. -/
theorem test_setDir_drains :
    after ((one sending).withFetchWord 32 0x10000001)
      (fun s => s.statusWord = 0x1001#32 ∧ s.cmdPhase = .dirA ∧ s.ports.map (·.pstatWord) = [0x6#32]) = true := by decide

/-- V80, on port 0: PBUF[0] = 09, one slot. -/
theorem test_txdata :
    after (((one q0).storePbuf 0 [0x09#8]).withFetchWord 32 0x11000001)
      (fun s => s.statusWord = 0x1100#32 ∧ s.period = 1204#32 ∧
        s.ports.map (fun q => (q.pstatWord, q.lensWord, (q.txBuf.get 1#1).data.bytes 0 2))
          = [(0x4000#32, 0x1#32, [0x00#8, 0x09#8])]) = true := by decide

/-- V83: the length 1023 is truncated to `slots` = 1. -/
theorem test_txdata_truncates :
    after ({ (one q0).storePbuf 0 [0x09#8] with slots := 1#10 }.withFetchWord 32 0x110003FF)
      (fun s => s.ports.map (fun q => ((q.txBuf.get 1#1).len, q.curLen)) = [(2#10, 1#10)]) = true := by decide

/-- P2 step 8: the frame 00 0A 0B 0C of three slots, first of its port. -/
theorem test_getDmx :
    after ((one { receiving with
        dmxHead := 1#2
        dmxRing := receiving.dmxRing.put 0#2
          { data := (Buffer.unwritten 0 (.dmxRing 0 0#2)).store 0 [0x00#8, 0x0A#8, 0x0B#8, 0x0C#8]
            slots := 3#10, updates := 1#32 } }).withFetchWord 32 0x12000000)
      (fun s => s.statusWord = 0x1202#32 ∧ s.result0 = 3#32 ∧ s.result1 = 1#32 ∧
        s.busWord 0x1400 = 0x0C0B0A00#32 ∧ s.ports.map Port.ringsWord = [0x00000101#32]) = true := by decide

/-- P2 step 9: an empty ring. -/
theorem test_getDmx_none :
    after ((one receiving).withFetchWord 32 0x12000000) (fun s => s.statusWord = 0x1200#32 ∧ s.result0 = 0#32) = true := by
  decide

/-- P2 step 10. -/
theorem test_getUps :
    after ((one { receiving with ups := 1#32 }).withFetchWord 32 0x13000000)
      (fun s => s.statusWord = 0x1300#32 ∧ s.result0 = 1#32) = true := by decide

/-- V64, the accepting write. -/
theorem test_rdmSendraw :
    after ((one quietOutput).withFetchWord 32 0x20000001)
      (fun s => s.statusWord = 0x2001#32 ∧ s.cmdPhase = .wait ∧ s.cmdLen = 1#10) = true := by decide

/-- V20: E_PORTSTATE on an IDLE port. -/
theorem test_rdmSendraw_idle_port :
    after ((one q0).withFetchWord 32 0x2000001A) (fun s => s.statusWord = 0x2050#32) = true := by decide

/-- V24: ML = 16 is accepted. -/
theorem test_rdmSend :
    after (((one quietOutput).storePbuf 2 [0x10#8]).withFetchWord 32 0x21000000)
      (fun s => s.statusWord = 0x2101#32 ∧ s.cmdLen = 18#10) = true := by decide

/-- V60, the end of the wait: `tn` = 5, sum 0x0694 + 5. -/
theorem test_rdmSend_checksum :
    (State.commandStep (inPhase .wait 0x21000000#32 (withRequest (one { quietOutput with tn := 5#8 })))).pbuf.bytes 24 2
      = [0x06#8, 0x99#8] := by decide

/-- V57's last row: an empty ring. -/
theorem test_rdmRecv_none :
    after ((one receiving).withFetchWord 32 0x22000000) (fun s => s.statusWord = 0x2200#32 ∧ s.result0 = 0#32) = true := by
  decide

/-- P3 step 7, on port 0, with the first bytes of the packet written. -/
theorem test_rdmRecv :
    after ((one { receiving with
        rdmHead := 1#3
        rdmRing := receiving.rdmRing.put 0#3
          { data := (Buffer.unwritten 0 (.rdmRing 0 0#3)).store 0 (requestHead ++ requestTail ++ [0x06#8, 0x94#8])
            cksum := 0x0694#16, cursor := 26#9, discCnt := 0#4 } }).withFetchWord 32 0x22000000)
      (fun s => s.statusWord = 0x2202#32 ∧ s.result0 = 26#32 ∧ s.busWord 0x1400 = 0x121801CC#32 ∧
        s.ports.map Port.ringsWord = [0x01010000#32]) = true := by decide

/-- V68: the command waits. -/
theorem test_rdmRecvTo_waits :
    after ({ one receiving with arg := 2800#32, micros := 7000#32 }.withFetchWord 32 0x23000000)
      (fun s => s.statusWord = 0x2301#32 ∧ s.cmdT0 = 7000#32) = true := by decide

/-- V69: a zero timeout ends at once. -/
theorem test_rdmRecvTo_zero :
    after ((one receiving).withFetchWord 32 0x23000000) (fun s => s.statusWord = 0x2300#32) = true := by decide

/-- V65, on port 0: the accepting write. -/
theorem test_rdmRespondRaw :
    after ((one quietOutput).withFetchWord 32 0x2400001A) (fun s => s.statusWord = 0x2401#32) = true := by decide

/-- V25. -/
theorem test_rdmRespondRaw_zero :
    after ((one quietOutput).withFetchWord 32 0x24000000) (fun s => s.statusWord = 0x2440#32) = true := by decide

/-- V26: an IDLE port is accepted. -/
theorem test_rdmRespondDisc :
    after ((one q0).withFetchWord 32 0x2500001A) (fun s => s.statusWord = 0x2501#32) = true := by decide

/-- V27. -/
theorem test_rdmRespondDisc_sending :
    after ((one sending).withFetchWord 32 0x2500001A) (fun s => s.statusWord = 0x2550#32) = true := by decide

/-! ### Time, lines and the bus -/

/-- 95_test_vectors.md 3.3, after tick 1. -/
theorem test_tick : after State.reset (fun s => s.micros = 1#32 ∧ s.schedTimer = 1203#32 ∧ s.schedState = .idle) = true := by
  decide

/-- P1, tick 1204: BREAK is entered and the staged frame counted. -/
theorem test_tick_enters_break :
    after
      { one { sending with
          txWr := 1#1
          curLen := 3#10
          txBuf := sending.txBuf.put 1#1 { data := Buffer.unwritten 0 (.txBuf 0 1#1), len := 4#10 } } with
        micros := 1203#32
        schedTimer := 1#32 }
      (fun s => s.schedState = .brk ∧ s.schedTimer = 176#32 ∧
        s.ports.map (fun q => (q.pstatWord, q.lensWord, q.wire)) = [(0xF10E#32, 0x00040003#32, [.brkOn 1204#32])]) = true := by
  decide

/-- P1, tick 1392: the first character starts in the tick that starts the DMA. -/
theorem test_tick_starts_data :
    after
      { one { sending with
          txWr := 1#1
          txRd := 1#1
          txset := true
          stgValid := true
          stgSlot := 1#1
          stgLen := 513#10
          txBuf := sending.txBuf.put 1#1
            { data := (Buffer.unwritten 0 (.txBuf 0 1#1)).store 0 [0x00#8], len := 513#10 } } with
        micros := 1391#32
        schedTimer := 1#32
        schedState := .mab
        period := 25000#32 }
      (fun s => s.schedState = .interFrame ∧ s.schedTimer = 24812#32 ∧
        s.ports.map (fun q => (q.pstatWord, q.wire)) = [(0xFC0E#32, [.char 1392#32 0x00#8])]) = true := by decide

/-- P2 steps 2 to 4: the line brings the machine to DMX_DATA. -/
theorem test_line_states :
    [receiving.lineError, receiving.lineError.lineMark, receiving.lineError.lineMark.lineChar 0#32 0x00#8].map Port.pstatWord
      = [0x00015#32, 0x00025#32, 0x10035#32] := by decide

/-- V48: the shortest message, declared length 3, is delivered with `cursor` = 5. -/
theorem test_line_shortest_message :
    (fun q : Port => (q.ringsWord, (q.rdmRing.get 0#3).cursor, q.rxState))
      ([0xCC#8, 0x01#8, 0x03#8, 0x00#8, 0xD0#8].foldl (fun q v => q.lineChar 508#32 v) receiving.lineError.lineMark)
      = (0x00010000#32, 5#9, .idle) := by decide

/-- V58: a character in IDLE arms the quiet counter only; a port that is not enabled hears nothing. -/
theorem test_line_idle :
    (receiving.lineChar 0#32 0x00#8).pstatWord = 0x10005#32 ∧
    ({ receiving with enableData := false }.lineError).pstatWord = 0x1#32 := by decide

/-- V30 and V31. -/
theorem test_bus_reset_values :
    [0x034, 0x008, 0x018, 0x01C, 0x020, 0x024, 0x028, 0x02C, 0x030].map (fun a => State.reset.busWord a)
      = [0x01CC6324#32, 0#32, 0#32, 1204#32, 176#32, 12#32, 0#32, 512#32, 1204#32] := by decide

/-- V33. -/
theorem test_bus_misaligned :
    after (pending (.hostWrite 0x1001#13 5#32) State.reset) (fun s => s.busErr = true ∧ s.busRdata = 0#32) = true := by decide

/-- V36. -/
theorem test_bus_little_endian :
    after (pending (.hostWrite 0x1000#13 0x121801CC#32) State.reset)
      (fun s => s.busWord 0x1000 = 0x121801CC#32 ∧ s.pbuf.bytes 0 4 = [0xCC#8, 0x01#8, 0x18#8, 0x12#8]) = true := by decide

/-- V28: a busy mailbox ignores a command and sets OVR. -/
theorem test_bus_busy :
    after (pending (.hostWrite 0x000#13 0#32) { inPhase .wait 0x21000000#32 (one quietOutput) with opc := 0x21#8 })
      (fun s => s.statusWord = 0x2105#32 ∧ s.cmdWord = 0x21000000#32) = true := by decide

/-- R360: reset from the middle of a command. -/
theorem test_reset_step :
    after (pending .reset (inPhase .wait 0x21000000#32 (one sending)))
      (fun s => s.statusWord = 0#32 ∧ s.schedTimer = 1204#32 ∧ s.ports.map Port.pstatWord = [0#32]) = true := by decide

theorem test_reset_memory : State.reset.pbuf.cells.wf ∧ State.reset.rbuf.cells.wf := by decide

/-! ### Witnesses: for each statement with hypotheses, a concrete state and operands that meet them, one for each clause, at the
boundary values of its range -/

theorem witness_DecodeAcceptsExactlyTheTableRows :
    decode 0x11F003FF#32 = .ok (.txdata 15#4 1023#10) ∧
    0x11F003FF#32 &&& (Instr.txdata 0#4 0#10).row.mask = (Instr.txdata 0#4 0#10).row.pattern := by decide

theorem witness_StepRunsTheDecodedCommand :
    (pending (.hostWrite 0#13 0x10100005#32) State.reset).inputs = .hostWrite 0#13 0x10100005#32 :: [] ∧
    State.reset.busy = false ∧ decode 0x10100005#32 = .ok (.setDir 1#4 1#1 1#2) := by decide

/-- The ends of the three reserved ranges; a must-be-zero bit of a global and of a port command; an absent port. -/
theorem witness_ReservedEncodingsCompleteWithAnError :
    State.reset.busy = false ∧
    [0x05000000#32, 0x0F000000#32, 0x14000000#32, 0x1F000000#32, 0x26000000#32, 0xFF000000#32].map
      (fun w : Word => (w.extractLsb' 24 8).toNat) = [0x05, 0x0F, 0x14, 0x1F, 0x26, 0xFF] ∧
    ((0x00000001#32).extractLsb' 24 8 = Instr.nop.opcode ∧ 0x00000001#32 &&& Instr.nop.row.mask ≠ Instr.nop.row.pattern) ∧
    ((0x12000001#32).extractLsb' 24 8 = (Instr.getDmx 0#4).opcode ∧
      0x12000001#32 &&& (Instr.getDmx 0#4).row.mask ≠ (Instr.getDmx 0#4).row.pattern) ∧
    ((0x12400001#32).extractLsb' 24 8 = (Instr.getDmx 4#4).opcode ∧
      0x12400001#32 &&& (Instr.getDmx 4#4).row.mask ≠ (Instr.getDmx 4#4).row.pattern ∧
      State.reset.ports.length ≤ ((0x12400001#32).extractLsb' 20 4).toNat) := by decide

theorem witness_AbsentPortCompletesWithPortError :
    ((Instr.getDmx 4#4).format ≠ .g ∧ State.reset.ports.length ≤ (Instr.getDmx 4#4).portBits.toNat) ∧
    ((Instr.rdmSend 15#4).format ≠ .g ∧ State.reset.ports.length ≤ (Instr.rdmSend 15#4).portBits.toNat) := by decide

theorem witness_RefusedCommandChangesOnlyTheMailbox :
    State.reset.err = .none ∧ ∃ t, exec (.setSlots 0#10) State.reset = .next t ∧ t.err ≠ .none :=
  ⟨rfl, _, rfl, by decide⟩

theorem witness_SetSlotsStoresLegalCountOrRefuses :
    (1 ≤ (1#10).toNat ∧ (1#10).toNat ≤ 512) ∧ (1 ≤ (512#10).toNat ∧ (512#10).toNat ≤ 512) ∧
    (0#10).toNat = 0 ∧ 512 < (513#10).toNat := by decide

theorem witness_SchedulerEntersBreak :
    State.reset.schedState = .idle ∧ ({ one sending with schedState := .interFrame } : State).schedState = .interFrame ∧
    ({ one sending with schedState := .data } : State).schedState = .data ∧ (one sending).ports[0]? = some sending :=
  ⟨rfl, rfl, rfl, rfl⟩

theorem witness_SchedulerLeavesBreak :
    ({ one { sending with txset := true } with schedState := .brk } : State).schedState = .brk ∧
    (one { sending with txset := true }).ports[0]? = some { sending with txset := true } := ⟨rfl, rfl⟩

/-- The premise on the period is met by equality here. -/
theorem witness_SchedulerStartsData :
    (fun s : State => s.schedState = .mab ∧ s.breakTime.toNat + s.mabTime.toNat ≤ s.period.toNat ∧
        s.ports[0]? = some { sending with txset := true, stgValid := true })
      { one { sending with txset := true, stgValid := true } with schedState := .mab, period := 188#32 } :=
  ⟨rfl, by decide, rfl⟩

/-- The countdown at 2 and at 1, and at 1 in each state of the cycle. -/
theorem witness_SchedulerMovesOnlyWhenTheCountdownExpires :
    (∀ s ∈ [{ State.reset with schedTimer := 2#32 }], 2 ≤ s.schedTimer.toNat ∧ ∃ t, step (pending .tick s) = .next t) ∧
    ∀ x ∈ [SchedState.idle, .interFrame, .brk, .mab],
      ({ State.reset with schedTimer := 1#32, schedState := x } : State).schedTimer = 1#32 ∧
      ∃ t, step (pending .tick { State.reset with schedTimer := 1#32, schedState := x }) = .next t :=
  ⟨fun s hs => by rw [List.mem_singleton.mp hs]; exact ⟨by decide, _, rfl⟩, fun x _ => ⟨rfl, _, rfl⟩⟩

theorem witness_TickRunsItsSubstepsInOrder : (pending .tick (one sending)).inputs = .tick :: [] := rfl

theorem witness_EveryTickAdvancesMicros :
    (State.reset.inputs = [] ∧ ∃ t, step State.reset = .next t) ∧
    ((pending .tick State.reset).inputs = .tick :: [] ∧ ∃ t, step (pending .tick State.reset) = .next t) :=
  ⟨⟨rfl, _, rfl⟩, rfl, _, rfl⟩

theorem witness_TxdataWritesTheFreeSlotAndPublishesIt :
    State.reset.ports[(3#4).toNat]? = some (Port.reset 0 3) ∧ State.reset.slots.toNat ≤ 512 := ⟨rfl, by decide⟩

/-- The first byte, the last byte, and a channel at rest. -/
theorem witness_DmaTransferMovesOneByte :
    (fun q : Port => q.dmaBusy = true ∧ q.thrFull = false ∧ q.dmaPos.toNat < q.dmaLen.toNat)
      { sending with dmaBusy := true, dmaLen := 513#10 } ∧
    (fun q : Port => q.dmaBusy = true ∧ q.thrFull = false ∧ q.dmaPos.toNat < q.dmaLen.toNat)
      { sending with dmaBusy := true, dmaPos := 512#10, dmaLen := 513#10 } ∧
    (q0.dmaBusy = false ∧ ({ sending with dmaBusy := true, thrFull := true } : Port).thrFull = true) := by decide

/-- A character at its last tick, a transmitter at rest, and one with a byte to start. -/
theorem witness_CharacterOccupiesFortyFourTicks :
    (fun q : Port => q.tsrBusy = true ∧ q.tsrRem = 1#6) { sending with tsrBusy := true, tsrRem := 1#6 } ∧
    (sending.tsrBusy = false ∧ sending.thrFull = false) ∧
    (fun q : Port => q.tsrBusy = false ∧ q.thrFull = true) { sending with thr := 0x55#8, thrFull := true } := by decide

/-- A port shifting a character, with no break condition. -/
theorem witness_PinsFollowDirectionAndBreak :
    (fun q : Port => q.brk = false ∧ q.tsrBusy = true ∧ q.tsr = 0x55#8)
      { sending with tsr := 0x55#8, tsrBusy := true, tsrRem := 1#6 } := by decide

/-- A port that is disabled, and one turned to OUTPUT. -/
theorem witness_LineEventsOfAClosedPortAreDropped :
    ∀ q ∈ [{ receiving with enableData := false }, sending],
      (one q).ports[0]? = some q ∧ ¬(q.dir = .input ∧ q.enableData = true) ∧
      (pending (.lineChar 0 0x00#8) (one q)).inputs = .lineChar 0 0x00#8 :: [] := by
  intro q hq
  refine ⟨rfl, ?_, rfl⟩
  rcases List.mem_cons.mp hq with rfl | hq
  · decide
  · rw [List.mem_singleton.mp hq]; decide

theorem witness_LineErrorAndMarkLeadToBreak :
    (one receiving).ports[0]? = some receiving ∧ receiving.dir = .input ∧ receiving.enableData = true ∧
    (pending (.lineError 0) (one receiving)).inputs = .lineError 0 :: [] ∧
    (pending (.lineMark 0) (one (receivingIn .preBreak))).inputs = .lineMark 0 :: [] := ⟨rfl, rfl, rfl, rfl, rfl⟩

/-- Each state and each kind of first character. -/
theorem witness_FirstCharacterAfterBreakChoosesTheBranch :
    (∀ x ∈ [RxState.idle, .preBreak, .brk], ∀ v ∈ [0x00#8, 0xCC#8, 0xAA#8, 0xFE#8],
      (one (receivingIn x)).ports[0]? = some (receivingIn x) ∧ (receivingIn x).dir = .input ∧
      (receivingIn x).enableData = true ∧ (receivingIn x).rxState = x ∧
      (pending (.lineChar 0 v) (one (receivingIn x))).inputs = .lineChar 0 v :: []) ∧
    (0xAA#8 ≠ 0x00#8 ∧ 0xAA#8 ≠ 0xCC#8 ∧ 0xFE#8 ≠ 0x00#8 ∧ 0xFE#8 ≠ 0xCC#8 ∧ 0xFE#8 ≠ 0xAA#8) :=
  ⟨fun _ _ _ _ => ⟨rfl, rfl, rfl, rfl, rfl⟩, by decide⟩

/-- A port that is not rx_active, a quiet counter that is not armed, one at 174 and one at 175. -/
theorem witness_IdleTimeoutClosesOnlyADmxFrame :
    ¬(sending.dir = .input ∧ sending.enableData = true) ∧ receiving.rxQuietArmed = false ∧
    (fun q : Port => q.dir = .input ∧ q.enableData = true ∧ q.rxQuietArmed = true ∧ q.rxQuiet ≠ 175#32)
      { receiving with rxQuietArmed := true, rxQuiet := 174#32 } ∧
    (fun q : Port => q.dir = .input ∧ q.enableData = true ∧ q.rxQuietArmed = true ∧ q.rxQuiet = 175#32)
      { receivingIn .dmxData with rxQuietArmed := true, rxQuiet := 175#32 } := by decide

theorem witness_StatisticsTickLatchesTheWindow :
    2 ≤ ({ State.reset with statsTimer := 2#32 } : State).statsTimer.toNat ∧
    ({ one receiving with statsTimer := 1#32 } : State).statsTimer = 1#32 ∧
    ({ one receiving with statsTimer := 1#32 } : State).ports[0]? = some receiving := ⟨by decide, rfl, rfl⟩

theorem witness_LineEventsKeepPublishedEntries :
    Published holding.dmxTail holding.dmxHead 0#2 ∧ Published holding.rdmTail holding.rdmHead 0#3 := by
  unfold Published; decide

theorem witness_LineEventsTouchOnlyTheirPort :
    (pending (.lineChar 1 0x00#8) State.reset).inputs = .lineChar 1 0x00#8 :: [] ∧
    ∃ t, step (pending (.lineChar 1 0x00#8) State.reset) = .next t := ⟨rfl, _, rfl⟩

/-- One slot and 512 slots; the ring has room and the frame is at its tail. -/
theorem witness_DmxFrameRoundTrip :
    receiving.dir = .input ∧ receiving.enableData = true ∧
    (1 ≤ [0x7F#8].length ∧ [0x7F#8].length ≤ 512) ∧
    (1 ≤ (List.replicate 512 0xFF#8).length ∧ (List.replicate 512 0xFF#8).length ≤ 512) ∧
    receiving.dmxHead + 1#2 ≠ receiving.dmxTail ∧ receiving.dmxHead = receiving.dmxTail ∧
    ∀ done : Port, (one done).ports[(0#4).toNat]? = some done :=
  ⟨rfl, rfl, by decide, by rw [List.length_replicate]; decide, by decide, rfl, fun _ => rfl⟩

theorem witness_OverlongFrameIsClamped :
    receiving.dir = .input ∧ receiving.enableData = true ∧ 512 < (List.replicate 513 0xFF#8).length ∧
    receiving.dmxHead + 1#2 ≠ receiving.dmxTail := ⟨rfl, rfl, by rw [List.length_replicate]; decide, by decide⟩

/-- Port 0 receiving, with its RDM ring full. -/
def fullRing : Port := { receiving with rdmHead := 7#3 }

/-- The shortest message (V48), accepted and with a wrong sum, and a message of 255 bytes; rings with room and full; messages
that declare 0 and 2, at 254 and at 255 bytes (V49a). -/
theorem witness_RdmMessageIsDeliveredIffItsChecksumMatches :
    receiving.dir = .input ∧ receiving.enableData = true ∧ receiving.rdmHead + 1#3 ≠ receiving.rdmTail ∧
    fullRing.dir = .input ∧ fullRing.enableData = true ∧ fullRing.rdmHead + 1#3 = fullRing.rdmTail ∧
    (fun m : List Byte => 3 ≤ m.length ∧ m.length ≤ 255 ∧ m[0]? = some 0xCC#8 ∧
      m[2]? = some (BitVec.ofNat 8 m.length) ∧
      256 * (0x00#8).toNat + (0xD0#8).toNat = (m.map BitVec.toNat).sum % 65536 ∧ m[1]? = some 0x01#8 ∧
      ¬(256 * (0x00#8).toNat + (0xD1#8).toNat = (m.map BitVec.toNat).sum % 65536))
      [0xCC#8, 0x01#8, 0x03#8] ∧
    (fun m : List Byte => 3 ≤ m.length ∧ m.length ≤ 255 ∧ m[0]? = some 0xCC#8 ∧
      m[2]? = some (BitVec.ofNat 8 m.length))
      ([0xCC#8, 0x01#8, 0xFF#8] ++ List.replicate 252 0x00#8) ∧
    (∀ ml ∈ [0x00#8, 0x02#8], ∀ n ∈ [251, 252],
      (fun m : List Byte => m.length = n + 3 ∧ m[0]? = some 0xCC#8 ∧ m[2]? = some ml ∧ ml.toNat ≤ 2)
        ([0xCC#8, 0x01#8, ml] ++ List.replicate n 0x00#8)) := by
  refine ⟨rfl, rfl, by decide, rfl, rfl, by decide, by decide, ?_, ?_⟩
  · have h : ([0xCC#8, 0x01#8, 0xFF#8] ++ List.replicate 252 0x00#8).length = 255 := by
      rw [List.length_append, List.length_replicate]; rfl
    exact ⟨by rw [h]; decide, h.le, rfl, by rw [h]; rfl⟩
  · intro ml hml n _
    refine ⟨by rw [List.length_append, List.length_replicate]; exact Nat.add_comm 3 n, rfl, rfl, ?_⟩
    simp only [List.mem_cons, List.not_mem_nil, or_false] at hml
    rcases hml with rfl | rfl <;> decide

/-- No preamble (V51), seven bytes of it (V50), eight and a terminator (V53), and nine without one (V54). -/
theorem witness_DiscoveryResponseIsDelivered :
    receiving.dir = .input ∧ receiving.enableData = true ∧
    (∀ x ∈ [([], 0xAA#8), (List.replicate 7 0xFE#8, 0xAA#8), (List.replicate 8 0xFE#8, 0xAA#8),
        (List.replicate 8 0xFE#8, 0xFE#8)],
      ((x.1.length ≤ Config.discPreambleMax ∧ x.2 = 0xAA#8) ∨ x.1.length = 8) ∧ (∀ v ∈ x.1, v ≠ 0xAA#8) ∧
      ∀ v ∈ x.1.head?, v ≠ 0x00#8 ∧ v ≠ 0xCC#8) ∧
    (List.replicate 16 0xEB#8).length = 16 := by decide

theorem witness_GetDmxPopsTheOldestRecord :
    ((one receiving).ports[(0#4).toNat]? = some receiving ∧ receiving.dmxHead = receiving.dmxTail) ∧
    (one holding).ports[(0#4).toNat]? = some holding ∧ holding.dmxHead ≠ holding.dmxTail :=
  ⟨⟨rfl, rfl⟩, rfl, by decide⟩

theorem witness_GetUpsReturnsTheWindowCount : (one receiving).ports[(0#4).toNat]? = some receiving := rfl

/-- The command of opcode `op` on port 0 in a phase: what the clauses about a phase ask for. -/
def InPhase (op : BitVec 8) (ph : CmdPhase) (q : Port) : Prop :=
  let s := inPhase ph (op ++ 0#24) (one q)
  s.cmdWord.extractLsb' 24 8 = op ∧ s.ports[(s.cmdWord.extractLsb' 20 4).toNat]? = some q ∧ s.cmdPhase = ph

theorem witness_RdmSendrawChecksWaitsAndEnds :
    (one quietOutput).ports[(0#4).toNat]? = some quietOutput ∧ InPhase 0x20#8 .wait quietOutput ∧
    InPhase 0x20#8 .drain quietOutput := ⟨rfl, ⟨rfl, rfl, rfl⟩, ⟨rfl, rfl, rfl⟩⟩

/-- A message of the shortest declared length that is accepted, in the wait of RDM_SEND, with spacing `a`. -/
def waitingMessage (a : Word) : State :=
  { inPhase .wait (0x21#8 ++ 0#24) ((one quietOutput).storePbuf 2 [0x10#8]) with arg := a }

/-- RDM_SEND is in its wait, with a message in PBUF whose declared length it accepts. -/
def SendWaits (s : State) : Prop :=
  s.cmdWord.extractLsb' 24 8 = 0x21#8 ∧ s.ports[(s.cmdWord.extractLsb' 20 4).toNat]? = some quietOutput ∧
  s.cmdPhase = .wait ∧ 15 < (s.pbuf.read 2).toNat

/-- A wait that is over and one that is not. -/
theorem witness_RdmSendNumbersAndChecksumsTheMessage :
    (one quietOutput).ports[(0#4).toNat]? = some quietOutput ∧
    (SendWaits (waitingMessage 0#32) ∧ (waitingMessage 0#32).arg = 0#32) ∧
    (SendWaits (waitingMessage 1000#32) ∧ ¬((waitingMessage 1000#32).arg = 0#32 ∨
      (waitingMessage 1000#32).arg.toNat ≤ ((waitingMessage 1000#32).micros - quietOutput.lastSendTs).toNat)) ∧
    InPhase 0x21#8 .drain quietOutput :=
  ⟨rfl, ⟨⟨rfl, rfl, rfl, by decide⟩, rfl⟩, ⟨⟨rfl, rfl, rfl, by decide⟩, by decide⟩, ⟨rfl, rfl, rfl⟩⟩

theorem witness_RdmRespondRawChecksWaitsAndEnds :
    (one quietOutput).ports[(0#4).toNat]? = some quietOutput ∧ InPhase 0x24#8 .wait quietOutput ∧
    InPhase 0x24#8 .drain quietOutput := ⟨rfl, ⟨rfl, rfl, rfl⟩, ⟨rfl, rfl, rfl⟩⟩

theorem witness_RdmRespondDiscTurnsThePortRoundAndBack :
    (one receiving).ports[(0#4).toNat]? = some receiving ∧ InPhase 0x25#8 .wait receiving ∧
    InPhase 0x25#8 .drain quietOutput ∧ InPhase 0x25#8 .post quietOutput ∧ quietOutput.dir = .output :=
  ⟨rfl, ⟨rfl, rfl, rfl⟩, ⟨rfl, rfl, rfl⟩, ⟨rfl, rfl, rfl⟩, rfl⟩

theorem witness_RawTransmissionSendsBreakMarkAndBytes :
    InPhase 0x20#8 .brk { quietOutput with brk := true } ∧ InPhase 0x20#8 .mab quietOutput ∧
    InPhase 0x20#8 .data quietOutput ∧ InPhase 0x25#8 .data quietOutput :=
  ⟨⟨rfl, rfl, rfl⟩, ⟨rfl, rfl, rfl⟩, ⟨rfl, rfl, rfl⟩, ⟨rfl, rfl, rfl⟩⟩

theorem witness_RdmRecvPopsTheOldestPacket :
    ((one receiving).ports[(0#4).toNat]? = some receiving ∧ receiving.rdmHead = receiving.rdmTail) ∧
    (one holding).ports[(0#4).toNat]? = some holding ∧ holding.rdmHead ≠ holding.rdmTail :=
  ⟨⟨rfl, rfl⟩, rfl, by decide⟩

theorem witness_RdmRecvToDeliversOrTimesOut :
    ((one holding).ports[(0#4).toNat]? = some holding ∧ holding.rdmHead ≠ holding.rdmTail) ∧
    ((one receiving).ports[(0#4).toNat]? = some receiving ∧ receiving.rdmHead = receiving.rdmTail ∧
      (one receiving).arg = 0#32 ∧ ({ one receiving with arg := 1#32 } : State).arg ≠ 0#32) ∧
    InPhase 0x23#8 .recvWait holding ∧ InPhase 0x23#8 .recvWait receiving :=
  ⟨⟨rfl, by decide⟩, ⟨rfl, rfl, rfl, by decide⟩, ⟨rfl, rfl, rfl⟩, ⟨rfl, rfl, rfl⟩⟩

theorem witness_SetDirOfIllegalOrCurrentModeChangesNothing :
    (one receiving).ports[(0#4).toNat]? = some receiving ∧
    (1#2 = receiving.dir.bits ∧ 1#2 ≠ 0#2 ∧ (receiving.enableData = true ↔ 1#1 = 1#1)) :=
  ⟨rfl, by decide⟩

/-- Port 0 after reset is legal. -/
theorem legal_q0 : q0.Legal where
  dir := by decide
  rxState := by decide
  staged := by decide
  channel := by decide
  curLen := by decide
  idleDisabled := by decide
  slotLens := by decide
  pending := by decide

/-- A port that receives is legal. -/
theorem legal_receiving : receiving.Legal where
  dir := by decide
  rxState := by decide
  staged := by decide
  channel := by decide
  curLen := by decide
  idleDisabled := by decide
  slotLens := by decide
  pending := by decide

/-- From IDLE to OUTPUT, and from a receiving port to INPUT with data off. -/
theorem witness_SetDirWithoutDrainTakesEffectAtOnce :
    ((one q0).ports[(0#4).toNat]? = some q0 ∧ ¬(q0.dir = .output ∧ q0.enableData = true) ∧ q0.Legal ∧
      ¬(Dir.output = q0.dir ∧ (q0.enableData = true ↔ 1#1 = 1#1))) ∧
    ((one receiving).ports[(0#4).toNat]? = some receiving ∧ ¬(receiving.dir = .output ∧ receiving.enableData = true) ∧
      receiving.Legal ∧ ¬(Dir.input = receiving.dir ∧ (receiving.enableData = true ↔ 0#1 = 1#1))) :=
  ⟨⟨rfl, by decide, legal_q0, by decide⟩, rfl, by decide, legal_receiving, by decide⟩

/-- The accepting write; both phases; in DIR_B a busy and a quiet transmitter and both directions. -/
theorem witness_SetDirDrainsASendingPort :
    ((one sending).ports[(0#4).toNat]? = some sending ∧ sending.dir = .output ∧ sending.enableData = true) ∧
    InPhase 0x10#8 .dirA sending ∧
    (∀ d ∈ [1#2, 2#2], (fun s : State => s.cmdWord.extractLsb' 24 8 = 0x10#8 ∧
        s.ports[(s.cmdWord.extractLsb' 20 4).toNat]? = some quietOutput ∧
        s.cmdPhase = .dirB ∧ s.cmdWord.extractLsb' 2 1 = 1#1 ∧ s.cmdWord.extractLsb' 0 2 = d)
      (inPhase .dirB (0x10#8 ++ 0#21 ++ 1#1 ++ d) (one quietOutput))) ∧
    (quietOutput.dir = .output ∧ quietOutput.enableData = false ∧
      quietOutput.dmaBusy = false ∧ quietOutput.thrFull = false ∧ quietOutput.tsrBusy = false) ∧
    (fun q : Port => q.dir = .output ∧ q.enableData = false ∧
      ¬(q.dmaBusy = false ∧ q.thrFull = false ∧ q.tsrBusy = false)) { quietOutput with tsrBusy := true } := by
  refine ⟨⟨rfl, rfl, rfl⟩, ⟨rfl, rfl, rfl⟩, ?_, by decide, by decide⟩
  intro d hd
  rcases List.mem_cons.mp hd with rfl | hd
  · exact ⟨rfl, rfl, rfl, rfl, rfl⟩
  · rw [List.mem_singleton.mp hd]; exact ⟨rfl, rfl, rfl, rfl, rfl⟩

theorem witness_HostReadHasNoSideEffect :
    (pending (.hostRead 0x014#13) State.reset).inputs = .hostRead 0x014#13 :: [] ∧
    ∃ t, step (pending (.hostRead 0x014#13) State.reset) = .next t := ⟨rfl, _, rfl⟩

/-- A misaligned address; the mailbox and the ends of PBUF while BUSY; a read-only register, RBUF and a reserved offset. -/
theorem witness_RefusedAndIgnoredAccessesChangeNothing :
    (0x1001#13).toNat % 4 ≠ 0 ∧
    (∀ a ∈ [0x000#13, 0x004#13, 0x1000#13, 0x11FC#13], a.toNat % 4 = 0 ∧
      (a.toNat = 0x000 ∨ a.toNat = 0x004 ∨ (0x1000 ≤ a.toNat ∧ a.toNat ≤ 0x11FC))) ∧
    (inPhase .wait 0#32 State.reset).busy = true ∧
    (∀ a ∈ [0x008#13, 0x0FFC#13, 0x1200#13, 0x1400#13, 0x1FFC#13], a.toNat % 4 = 0 ∧
      ¬(a.toNat = 0x000 ∨ a.toNat = 0x004 ∨ (0x1000 ≤ a.toNat ∧ a.toNat ≤ 0x11FC))) := by
  simp [inPhase]

/-- ARG, and the first and the last word of PBUF. -/
theorem witness_PbufWordIsWrittenLittleEndianAndReadBack :
    (State.reset.busy = false ∧
      ({ State.reset with inputs := [.hostWrite 0x004#13 5#32, .hostRead 0x004#13] } : State).inputs
        = .hostWrite 0x004#13 5#32 :: .hostRead 0x004#13 :: []) ∧
    ∀ a ∈ [0x1000#13, 0x11FC#13], a.toNat % 4 = 0 ∧ 0x1000 ≤ a.toNat ∧ a.toNat ≤ 0x11FC ∧ State.reset.busy = false ∧
      ({ State.reset with inputs := [.hostWrite a 5#32, .hostRead a] } : State).inputs
        = .hostWrite a 5#32 :: .hostRead a :: [] := by
  simp [State.reset, State.afterReset]

/-- A read that each clause is about, at the ends of the ranges. -/
theorem witness_GlobalRegistersReadAtTheirOffsets :
    (State.reset.ports.length < 16 ∧ (one q0).ports.length < 16) ∧
    ∀ a ∈ [0x000#13, 0x034#13, 0x038#13, 0x0FC#13, 0x200#13, 0xFFC#13, 0x1000#13, 0x11FC#13, 0x1200#13, 0x13FC#13, 0x1400#13,
        0x15FC#13, 0x1600#13, 0x1604#13, 0x1FFC#13],
      a.toNat % 4 = 0 ∧ (pending (.hostRead a) State.reset).inputs = .hostRead a :: [] ∧
      ∃ t, step (pending (.hostRead a) State.reset) = .next t := by
  refine ⟨by decide, fun a ha => ⟨?_, rfl, ?_⟩⟩
  · revert a; simp
  · exact ⟨_, rfl⟩

/-- The first and the last register of the first and the last port, and the first reserved offset of a block. -/
theorem witness_PortRegistersReadAtTheirOffsets :
    (∀ x ∈ [(0, 0x00), (0, 0x20), (3, 0x1C), (3, 0x3C)], ∀ a : BitVec 13, a = BitVec.ofNat 13 (0x100 + 0x40 * x.1 + x.2) →
      a.toNat = 0x100 + 0x40 * x.1 + x.2 ∧ x.2 < 0x40 ∧ x.2 % 4 = 0 ∧ x.1 < 4) ∧
    (State.reset.ports[3]? = some (Port.reset 0 3) ∧ (one q0).ports.length ≤ 3) ∧
    ∃ t, step (pending (.hostRead 0x1DC#13) State.reset) = .next t := by
  refine ⟨by simp, ⟨rfl, by decide⟩, _, rfl⟩

theorem witness_CommandsKeepTheBytesTheyDoNotStore :
    (∀ port len, Instr.nop ≠ .txdata port len) ∧
    (∀ port, Instr.nop ≠ .getDmx port ∧ Instr.nop ≠ .rdmRecv port ∧ Instr.nop ≠ .rdmRecvTo port) ∧
    ∃ t, exec .nop State.reset = .next t :=
  ⟨nofun, fun _ => ⟨nofun, nofun, nofun⟩, _, rfl⟩

theorem witness_CommandsDoNotWriteWhatOtherAgentsOwn :
    (∃ i t, exec i State.reset = .next t ∧ State.reset.ports[0]? = some (Port.reset 0 0) ∧
      t.ports[0]? = some (Port.reset 0 0)) ∧
    (inPhase .wait 0x20000000#32 (one quietOutput)).ports[0]? = some quietOutput :=
  ⟨⟨.nop, _, rfl, rfl, rfl⟩, rfl⟩

/-- Each line event; a tick with no command in progress, and one with a command in its wait. -/
theorem witness_EventStepsDoNotWriteWhatTheHostOwns :
    (∀ e ∈ [Event.tick, .lineError 0, .lineMark 0, .lineChar 0 0xCC#8],
      (pending e (one receiving)).inputs = e :: [] ∧ ∃ t, step (pending e (one receiving)) = .next t) ∧
    (one receiving).cmdPhase = .none ∧
    ∃ t, step (pending .tick (inPhase .recvWait (0x23#8 ++ 0#24) (one receiving))) = .next t := by
  refine ⟨fun e he => ⟨rfl, ?_⟩, rfl, _, rfl⟩
  simp only [List.mem_cons, List.not_mem_nil, or_false] at he
  rcases he with rfl | rfl | rfl | rfl <;> exact ⟨_, rfl⟩

theorem witness_ResetStepRestoresTheResetTable :
    (pending .reset (inPhase .wait 0x21000000#32 (one sending))).inputs = .reset :: [] := rfl

/-- The invariants hold of a block that is receiving, where a tick is pending. -/
theorem witness_EveryStepKeepsTheStateLegal :
    (one receiving).Legal ∧ ∃ t, step (pending .tick (one receiving)) = .next t := by
  have h0 : ∀ m, IsMaxlen (one receiving) m → m = 0 := fun m h => isMaxlen_iff.mp h
  refine ⟨⟨by decide, by decide, by decide, by decide, by decide, ?_, ?_, by decide, ?_⟩, _, rfl⟩
  · intro m h; rw [h0 m h]; decide
  · intro m h; rw [h0 m h]; decide
  · intro q hq; rw [List.mem_singleton.mp hq]; exact legal_receiving

theorem witness_EveryStepKeepsIdlePortsQuiet :
    (one receiving).Quiet ∧ (one receiving).cmdPhase = .none ∧ receiving ∈ (one receiving).ports ∧
    receiving.txActive = false := by
  refine ⟨?_, rfl, by simp [one], rfl⟩
  intro p q h
  obtain ⟨_, rfl⟩ : p = 0 ∧ q = receiving := by
    rcases p with _ | p
    · exact ⟨rfl, (Option.some.inj h).symm⟩
    · cases h
  exact ⟨nofun, nofun, fun _ _ => ⟨rfl, rfl, rfl, rfl⟩, fun _ _ => ⟨rfl, rfl, rfl, rfl⟩⟩

/-- A port with a published packet and frame, a command at its last byte, and the last byte of PBUF written. -/
theorem witness_EveryStepKeepsTheIndexBounds :
    ({ (one holding).storePbuf 511 [0x09#8] with cmdPhase := .data, cmdPos := 511#10, cmdLen := 512#10 } :
      State).IndexBounds := by
  refine ⟨?_, by decide, ⟨rfl, ?_⟩, ⟨rfl, nofun⟩, ?_, by decide, by decide⟩
  · intro q hq
    rw [List.mem_singleton.mp hq]
    refine ⟨nofun, ?_, nofun, nofun, nofun, nofun, nofun, nofun, ?_⟩
    · unfold Published; decide
    · unfold Published; decide
  · intro c hc
    rw [List.mem_singleton.mp hc]
    decide
  · intro p q h
    obtain ⟨rfl, rfl⟩ : p = 0 ∧ q = holding := by
      rcases p with _ | p
      · exact ⟨rfl, (Option.some.inj h).symm⟩
      · cases h
    refine ⟨?_, ?_, ?_⟩ <;> (unfold Buffer.Inside; decide)

/-- A memory that holds a byte. -/
theorem witness_EveryStepKeepsMemoryCanonical :
    ((one receiving).storePbuf 0 [0x09#8]).MemoryWf ∧ ((one receiving).storePbuf 0 [0x09#8]).pbuf.cells ≠ [] := by
  refine ⟨State.storePbuf_memoryWf ⟨by decide, by decide, ?_⟩ _ _, by decide⟩
  intro q hq
  rw [List.mem_singleton.mp hq]
  exact ⟨by decide, by decide, by decide⟩

end Sys2Proof.Tests
end

section
/-! Legal states (10_state.md R61): the part of a port that legality reads, which operations on a port carry it over, and the
split of `State.Legal` into what each operation of the block must show; then every step keeps it. -/

namespace Sys2Proof.Machine

/-! ### The clauses about one port -/

theorem Dir.bits_ne_three (d : Dir) : d.bits ≠ 3#2 := by cases d <;> decide

theorem RxState.bits_le_nine (x : RxState) : x.bits.toNat ≤ 9 := by cases x <;> decide

/-- The transmit store, the staged frame and the DMA channel: with the mode, all that `Port.Legal` and `maxlen` read. -/
def Port.transmitSide (q : Port) :=
  ((q.txBuf, q.txWr, q.txRd), (q.curLen, q.stgValid, q.stgLen), q.dmaBusy, q.dmaPos, q.dmaLen)

/-- The mode of a port (44_port_controller.md R290). -/
def Port.mode (q : Port) := (q.dir, q.enableData)

/-- An operation that takes the port `q` to `r` carries legality over and leaves the port's share of `maxlen` alone. -/
structure Port.KeepsLegal (q r : Port) : Prop where
  legal : q.Legal → r.Legal
  pending : r.pendingSlots = q.pendingSlots

/-- With the transmit side unchanged, what is left of legality is that an IDLE port is disabled. -/
theorem Port.KeepsLegal.of_transmitSide {q r : Port} (h : r.transmitSide = q.transmitSide)
    (hd : (q.dir = .idle → q.enableData = false) → r.dir = .idle → r.enableData = false) : q.KeepsLegal r := by
  simp only [Port.transmitSide, Prod.mk.injEq] at h
  obtain ⟨⟨htx, hwr, hrd⟩, ⟨hcur, hval, hlen⟩, hbusy, hpos, hdma⟩ := h
  constructor
  case pending => simp only [Port.pendingSlots, Port.inflight, hcur, hval, hlen]
  case legal =>
    intro hq
    exact
      { dir := r.dir.bits_ne_three
        rxState := r.rxState.bits_le_nine
        staged := by rw [hval, hlen]; exact hq.staged
        channel := by rw [hbusy, hpos, hdma]; exact hq.channel
        curLen := hcur ▸ hq.curLen
        idleDisabled := hd hq.idleDisabled
        slotLens := htx ▸ hq.slotLens
        pending := by rw [htx, hwr, hrd]; exact hq.pending }

/-- What legality does not read may change freely: the receive side, the transmitter, the counters, the timestamps. -/
theorem Port.KeepsLegal.of_same {q r : Port} (h : r.transmitSide = q.transmitSide) (hm : r.mode = q.mode) :
    q.KeepsLegal r := by
  simp only [Port.mode, Prod.mk.injEq] at hm
  exact .of_transmitSide h fun hi => by rw [hm.1, hm.2]; exact hi

theorem Port.KeepsLegal.refl (q : Port) : q.KeepsLegal q := .of_same rfl rfl

/-! ### The operations on a port -/

/-- A received character touches neither the transmit side nor the mode. -/
theorem Port.charInState_sides (t : Micros) (v : Byte) (q : Port) :
    (q.charInState t v).transmitSide = q.transmitSide ∧ (q.charInState t v).mode = q.mode := by
  unfold Port.charInState
  cases q.rxState with
  | brk => dsimp only [Port.charInBreak]; split_ifs <;> exact ⟨rfl, rfl⟩
  | dmxData => dsimp only [Port.charInDmxData]; split_ifs <;> exact ⟨rfl, rfl⟩
  | checksumLow => dsimp only [Port.charInChecksumLow]; split_ifs <;> exact ⟨rfl, rfl⟩
  | discPreamble => dsimp only [Port.charInDiscPreamble]; split_ifs <;> exact ⟨rfl, rfl⟩
  | discUid => dsimp only [Port.charInDiscUid]; split_ifs <;> exact ⟨rfl, rfl⟩
  | discChecksum => dsimp only [Port.charInDiscChecksum]; split_ifs <;> exact ⟨rfl, rfl⟩
  | _ => exact ⟨rfl, rfl⟩

theorem Port.lineChar_keepsLegal (t : Micros) (v : Byte) (q : Port) : q.KeepsLegal (q.lineChar t v) := by
  unfold Port.lineChar
  split_ifs
  · have h := Port.charInState_sides t v { q with rxQuiet := 0#32, rxQuietArmed := true }
    exact .of_same h.1 h.2
  · exact .refl q

theorem Port.lineError_keepsLegal (q : Port) : q.KeepsLegal q.lineError := by
  unfold Port.lineError
  split_ifs <;> exact .of_same rfl rfl

theorem Port.lineMark_keepsLegal (q : Port) : q.KeepsLegal q.lineMark := by
  unfold Port.lineMark
  split_ifs <;> exact .of_same rfl rfl

theorem Port.idleTimer_keepsLegal (q : Port) : q.KeepsLegal q.idleTimer := by
  unfold Port.idleTimer Port.idleTimeout
  dsimp only
  split_ifs <;> exact .of_same rfl rfl

theorem Port.charEnd_keepsLegal (q : Port) : q.KeepsLegal q.charEnd := by
  unfold Port.charEnd
  split_ifs <;> exact .of_same rfl rfl

theorem Port.charStart_keepsLegal (t : Micros) (q : Port) : q.KeepsLegal (q.charStart t) := by
  unfold Port.charStart
  split_ifs <;> exact .of_same rfl rfl

theorem Port.breakOn_keepsLegal (t : Micros) (q : Port) : q.KeepsLegal (q.breakOn t) := .of_same rfl rfl

theorem Port.breakOff_keepsLegal (t : Micros) (q : Port) : q.KeepsLegal (q.breakOff t) := .of_same rfl rfl

theorem Port.loadThr_keepsLegal (v : Byte) (q : Port) : q.KeepsLegal (q.loadThr v) := .of_same rfl rfl

theorem Port.latchUps_keepsLegal (q : Port) : q.KeepsLegal q.latchUps := .of_same rfl rfl

theorem Port.disable_keepsLegal (q : Port) : q.KeepsLegal q.disable := .of_transmitSide rfl fun _ _ => rfl

theorem Port.enable_keepsLegal {q : Port} (hd : q.dir ≠ .idle) : q.KeepsLegal q.enable :=
  .of_transmitSide rfl fun _ hi => absurd hi hd

theorem Port.ifTxset_keepsLegal {f : Port → Port} (hf : ∀ q, Port.KeepsLegal q (f q)) (q : Port) :
    q.KeepsLegal (q.ifTxset f) := by
  unfold Port.ifTxset
  split_ifs
  · exact hf q
  · exact .refl q

/-- A frame that is staged fits the channel (42_transmit_pipeline.md R224). -/
theorem Port.dmaStart_keepsLegal {q : Port} (hv : q.stgValid = true) : q.KeepsLegal q.dmaStart :=
  ⟨fun h => { h with channel := fun _ => h.staged hv }, rfl⟩

/-- The channel stops at its last byte (42_transmit_pipeline.md R225). -/
theorem Port.dmaTransfer_keepsLegal (q : Port) : q.KeepsLegal q.dmaTransfer := by
  unfold Port.dmaTransfer
  split_ifs with hb hlast
  · exact ⟨fun h => { h with channel := nofun }, rfl⟩
  · refine ⟨fun h => { h with channel := fun hbusy => ?_ }, rfl⟩
    obtain ⟨hlt, hle⟩ := h.channel hbusy
    have hne : (q.dmaPos + 1#10).toNat ≠ q.dmaLen.toNat := fun e => hlast (BitVec.eq_of_toNat_eq e)
    rw [BitVec.toNat_add_of_lt (by simp; omega)] at hne ⊢
    simp only [BitVec.toNat_ofNat] at hne ⊢
    exact ⟨by omega, hle⟩
  · exact .refl q

/-- The frame that waits in the store becomes the staged one (40_timing_scheduler.md R141). -/
theorem Port.enterCycle_legal {q : Port} (h : q.Legal) : q.enterCycle.Legal := by
  unfold Port.enterCycle
  split_ifs with ha hw
  · exact { h with staged := fun _ => ⟨h.pending hw, h.slotLens _⟩, pending := fun hne => absurd rfl hne }
  · exact { h with }
  · exact { h with }

/-- TXDATA writes a slot of legal length (42_transmit_pipeline.md R220). -/
theorem Port.enqueueFrame_legal {q : Port} (h : q.Legal) {n : Nat} (hn : n ≤ 512) (src : Buffer) :
    (q.enqueueFrame n src).Legal := by
  have hlen : (BitVec.ofNat 10 (n + 1)).toNat = n + 1 := by simp; omega
  refine { h with curLen := ?_, slotLens := fun k => ?_, pending := fun _ => ?_ }
  · simp only [Port.enqueueFrame, BitVec.toNat_ofNat]; omega
  · simp only [Port.enqueueFrame, Bank.get_put]
    split_ifs
    · rw [hlen]; omega
    · exact h.slotLens k
  · simp only [Port.enqueueFrame, Bank.get_put_self, hlen]; omega

/-- A switch to a direction, enabled or not, leaves a port that is not IDLE. -/
theorem Port.switchTo_sides (d : Dir) (t : Micros) (q : Port) :
    (q.switchTo d t).transmitSide = q.transmitSide ∧ (q.switchTo d t).dir = d := by
  unfold Port.switchTo Port.emitSwitch
  dsimp only
  split_ifs <;> exact ⟨rfl, rfl⟩

theorem Port.finishDir_sides (d : Dir) (e : Bool) (t : Micros) (q : Port) :
    (q.finishDir d e t).transmitSide = q.transmitSide ∧ (q.finishDir d e t).dir = d := by
  unfold Port.finishDir
  dsimp only
  split_ifs with he hd hd
  · exact Port.switchTo_sides d t q
  · exact ⟨rfl, (not_not.mp hd).symm⟩
  · exact Port.switchTo_sides d t q
  · exact ⟨rfl, (not_not.mp hd).symm⟩

theorem Port.finishDir_keepsLegal {d : Dir} (hd : d ≠ .idle) (e : Bool) (t : Micros) (q : Port) :
    q.KeepsLegal (q.finishDir d e t) := by
  obtain ⟨hside, hdir⟩ := Port.finishDir_sides d e t q
  exact .of_transmitSide hside fun _ hi => absurd (hdir ▸ hi) hd

theorem Port.drainNow_keepsLegal (q : Port) : q.KeepsLegal q.drainNow := by
  unfold Port.drainNow
  split_ifs
  · exact .of_transmitSide rfl fun _ _ => rfl
  · exact .refl q

theorem Port.turnToOutput_keepsLegal (t : Micros) (q : Port) : q.KeepsLegal (q.turnToOutput t) := by
  obtain ⟨hside, hdir⟩ := Port.switchTo_sides .output t q.stopReceive.disable
  exact .of_transmitSide hside fun _ hi => absurd (hdir.symm.trans hi) (by decide)

/-- The return to INPUT that ends a discovery response (43_rdm_primitives.md R260). -/
theorem Port.returnToInput_keepsLegal (t : Micros) (q : Port) : q.KeepsLegal (q.switchTo .input t).enable := by
  obtain ⟨hside, hdir⟩ := Port.switchTo_sides .input t q
  exact .of_transmitSide hside fun _ hi => absurd (hdir.symm.trans hi) (by decide)

theorem Port.reset_legal (k p : Nat) : (Port.reset k p).Legal where
  dir := Dir.bits_ne_three _
  rxState := RxState.bits_le_nine _
  staged := nofun
  channel := nofun
  curLen := Nat.zero_le _
  idleDisabled _ := rfl
  slotLens _ := by simp [Port.reset]
  pending h := absurd rfl h

/-! ### The clauses about the block -/

/-- `State.Legal` without the value of `period` and what follows from it. -/
structure State.LegalButPeriod (s : State) : Prop where
  schedState : s.schedState = .idle ∨ s.schedState = .brk ∨ s.schedState = .mab ∨ s.schedState = .interFrame
  schedTimer : 1 ≤ s.schedTimer.toNat
  slots : 1 ≤ s.slots.toNat ∧ s.slots.toNat ≤ 512
  breakTime : 92 ≤ s.breakTime.toNat
  mabTime : 12 ≤ s.mabTime.toNat
  busy : s.busy = true ↔ s.cmdPhase ≠ .none
  ports : ∀ q ∈ s.ports, q.Legal

/-- The cycle fits the period because the period is the one R144 gives: this is the whole of `State.Legal` about `period`. -/
theorem State.legal_iff (s : State) : s.Legal ↔ s.LegalButPeriod ∧ s.period = s.periodFor s.maxlen := by
  constructor
  · intro h
    exact ⟨{ h with }, h.period _ (isMaxlen_maxlen s)⟩
  · rintro ⟨h, hp⟩
    have hmax : s.maxlen ≤ 512 := maxlen_le fun q hq => ⟨(h.ports q hq).curLen, fun hv => ((h.ports q hq).staged hv).2⟩
    refine { h with period := fun m hm => isMaxlen_iff.mp hm ▸ hp, cycle := fun m hm => ?_ }
    rw [isMaxlen_iff.mp hm, hp, periodFor_toNat s hmax, periodOf]
    omega

theorem State.Legal.butPeriod {s : State} (h : s.Legal) : s.LegalButPeriod := (s.legal_iff.mp h).1

/-- Recomputing the period makes the rest of legality the whole of it. -/
theorem State.LegalButPeriod.recomputePeriod {s : State} (h : s.LegalButPeriod) : s.recomputePeriod.Legal := by
  rw [recomputePeriod_eq]
  exact (State.legal_iff _).mpr ⟨{ h with }, rfl⟩

/-- `maxlen` depends on the ports' shares only. -/
theorem maxlen_of_pendingSlots {s t : State}
    (h : t.ports.map Port.pendingSlots = s.ports.map Port.pendingSlots) : t.maxlen = s.maxlen := by
  have hfold : ∀ u : State, u.maxlen = (u.ports.map Port.pendingSlots).foldr max 0 := fun u => by
    simp only [State.maxlen, List.foldr_map]
  rw [hfold, hfold, h]

/-- A change of the ports alone keeps the block legal when it keeps every port legal and `maxlen` the same. -/
theorem State.Legal.withPorts {s : State} (h : s.Legal) {ps : List Port} (hl : ∀ q ∈ ps, q.Legal)
    (hp : ps.map Port.pendingSlots = s.ports.map Port.pendingSlots) : State.Legal { s with ports := ps } := by
  obtain ⟨hrest, hperiod⟩ := s.legal_iff.mp h
  refine (State.legal_iff _).mpr ⟨{ hrest with ports := hl }, ?_⟩
  rw [maxlen_of_pendingSlots (s := s) hp]
  exact hperiod

theorem State.Legal.eachPort {s : State} (h : s.Legal) {f : Port → Port} (hf : ∀ q ∈ s.ports, q.KeepsLegal (f q)) :
    (s.eachPort f).Legal := by
  refine h.withPorts (fun q hq => ?_) ?_
  · obtain ⟨q₀, hq₀, rfl⟩ := List.mem_map.mp hq
    exact (hf q₀ hq₀).legal (h.ports q₀ hq₀)
  · rw [List.map_map]
    exact List.map_congr_left fun q hq => (hf q hq).pending

theorem State.Legal.updPort {s : State} (h : s.Legal) {p : Nat} {f : Port → Port}
    (hf : ∀ q, s.ports[p]? = some q → q.KeepsLegal (f q)) : (s.updPort p f).Legal := by
  refine h.withPorts (fun q hq => ?_) ?_
  · rcases State.mem_updPort hq with hq | ⟨q₀, hp, hq₀, rfl⟩
    · exact h.ports q hq
    · exact (hf q₀ hp).legal (h.ports q₀ hq₀)
  · refine List.ext_getElem? fun r => ?_
    simp only [List.getElem?_map, List.getElem?_modify]
    cases hr : s.ports[r]? with
    | none => rfl
    | some q =>
      by_cases hpr : p = r
      · simp [hpr, (hf q (hpr ▸ hr)).pending]
      · simp [hpr]

/-- A command that ends leaves the mailbox idle. -/
theorem State.Legal.complete {s : State} (h : s.Legal) (e : ErrCode) (v : Bool) (a b : Word) :
    (s.complete e v a b).Legal := { h with busy := by simp }

theorem State.Legal.hold {s : State} (h : s.Legal) {ph : CmdPhase} (hph : ph ≠ .none) : (s.hold ph).Legal :=
  { h with busy := by simp [hph] }

/-- The command in progress goes on to another phase. -/
theorem State.Legal.inPhase {s : State} (h : s.Legal) (hb : s.busy = true) {ph : CmdPhase} (hph : ph ≠ .none) :
    State.Legal { s with cmdPhase := ph } := { h with busy := by simp [hb, hph] }

theorem State.Legal.storeRbuf {s : State} (h : s.Legal) (i : Nat) (bs : List Byte) : (s.storeRbuf i bs).Legal := { h with }

theorem State.Legal.deliver {s : State} (h : s.Legal) (p : Nat) (q : Port) : (s.deliver p q).Legal :=
  .complete (.updPort (h.storeRbuf _ _) fun _ _ => by exact .of_same rfl rfl) _ _ _ _

/-! ### Accepting writes -/

/-- Every accepting write keeps the block legal. -/
theorem CommandEffect.legal {i : Instr} {s t : State} (h : s.Legal) (hc : CommandEffect i s t) : t.Legal := by
  have hrest := h.butPeriod
  cases hc with
  | ended e => exact h.complete _ _ _ _
  | configured b m r n hb hm hn =>
    have hset : State.LegalButPeriod { s with breakTime := b, mabTime := m, periodReq := r, slots := n } :=
      { hrest with
        breakTime := hb.elim (· ▸ hrest.breakTime) id
        mabTime := hm.elim (· ▸ hrest.mabTime) id
        slots := hn.elim (· ▸ hrest.slots) id }
    exact hset.recomputePeriod.complete _ _ _ _
  | enqueued port len q n hi hq hn =>
    have hport : (s.updPort port.toNat (Port.enqueueFrame n s.pbuf)).LegalButPeriod :=
      { hrest with
        ports := fun r hr => by
          rcases State.mem_updPort hr with hr | ⟨q₀, _, hq₀, rfl⟩
          · exact h.ports r hr
          · exact Port.enqueueFrame_legal (h.ports q₀ hq₀) (hn.trans h.slots.2) s.pbuf }
    exact hport.recomputePeriod.complete _ _ _ _
  | enabled p q hp hq hd =>
    exact (h.updPort fun r hr => Port.enable_keepsLegal (Option.some.inj (hq.symm.trans hr) ▸ hd)).complete _ _ _ _
  | turned p q d e hp hq ht hd =>
    exact ((h.updPort fun r _ => r.drainNow_keepsLegal).updPort fun r _ => r.finishDir_keepsLegal hd e _).complete _ _ _ _
  | draining p q hf hp hq ht => exact h.hold (by decide)
  | raw p q len hf hp hq ht hl => exact State.Legal.hold (s := { s with cmdLen := len }) { h with } (by decide)
  | counted r0 => exact h.complete _ _ _ _
  | fetched port q r0 r1 n hi hq hr hn =>
    exact .complete (.updPort (h.storeRbuf _ _) fun r _ => by exact .of_same rfl rfl) _ _ _ _
  | delivered port q t0 hi hq hr => exact State.Legal.deliver (s := { s with cmdT0 := t0 }) { h with } _ q
  | timedOut => exact State.Legal.complete (s := { s with cmdT0 := s.micros }) { h with } _ _ _ _
  | waiting p hf hp hq => exact State.Legal.hold (s := { s with cmdT0 := s.micros }) { h with } (by decide)

/-! ### Phases of the command in progress -/

theorem State.Legal.prepareRaw {s : State} (h : s.Legal) (k : RawSend) (p : Nat) (q : Port) : (s.prepareRaw k p q).Legal := by
  cases k with
  | sendraw => exact h
  | send => exact { h with }
  | respondRaw => exact h
  | respondDisc => exact h.updPort fun r _ => r.turnToOutput_keepsLegal _

theorem State.Legal.firstByte {s : State} (h : s.Legal) (hb : s.busy = true) (p : Nat) : (s.firstByte p).Legal := by
  have hport := h.updPort (p := p) fun r _ => r.loadThr_keepsLegal (s.pbuf.read 0)
  exact State.Legal.inPhase (s := { s.updPort p (Port.loadThr (s.pbuf.read 0)) with cmdPos := 1#10 }) { hport with } hb
    (by split_ifs <;> decide)

theorem State.Legal.startBreak {s : State} (h : s.Legal) (hb : s.busy = true) (p : Nat) : (s.startBreak p).Legal := by
  have hport := h.updPort (p := p) fun r _ => r.breakOn_keepsLegal s.micros
  exact State.Legal.inPhase (s := { s.updPort p (Port.breakOn s.micros) with cmdT0 := s.micros }) { hport with } hb (by decide)

theorem State.Legal.beginRaw {s : State} (h : s.Legal) (hb : s.busy = true) (k : RawSend) (p : Nat) (q : Port) :
    (s.beginRaw k p q).Legal := by
  have hprep : ((s.prepareRaw k p q).updPort p fun q => { q with lastSendTs := s.micros }).Legal :=
    (h.prepareRaw k p q).updPort fun r _ => .of_same rfl rfl
  cases k with
  | sendraw => exact hprep.startBreak hb p
  | send => exact hprep.startBreak hb p
  | respondRaw => exact hprep.startBreak hb p
  | respondDisc => exact hprep.firstByte hb p

theorem State.Legal.endRaw {s : State} (h : s.Legal) (hb : s.busy = true) (k : RawSend) (p : Nat) : (s.endRaw k p).Legal := by
  cases k with
  | sendraw => exact h.complete _ _ _ _
  | send => exact .complete (.updPort h fun r _ => by exact .of_same rfl rfl) _ _ _ _
  | respondRaw => exact h.complete _ _ _ _
  | respondDisc => exact State.Legal.inPhase (s := { s with cmdT0 := s.micros }) { h with } hb (by decide)

/-- The command engine's substep keeps the block legal: a command in progress has BUSY set. -/
theorem State.Legal.commandStep {s : State} (h : s.Legal) : s.commandStep.Legal := by
  have hbusy : ∀ {ph : CmdPhase}, s.cmdPhase = ph → ph ≠ .none → s.busy = true := fun hph hne => h.busy.mpr (hph ▸ hne)
  generalize hu : s.commandStep = u
  cases hu ▸ commandStep_cases s with
  | held => exact h
  | broke q k hk hq hph => exact h.beginRaw (hbusy hph (by decide)) k _ q
  | responded q hq hph => exact h.beginRaw (hbusy hph (by decide)) .respondDisc _ q
  | marked q hq hph =>
    have hport := h.updPort (p := s.cmdPort) fun r _ => r.breakOff_keepsLegal s.micros
    exact State.Legal.inPhase (s := { s.updPort s.cmdPort (Port.breakOff s.micros) with cmdT0 := s.micros }) { hport with }
      (hbusy hph (by decide)) (by decide)
  | started q hq hph => exact h.firstByte (hbusy hph (by decide)) _
  | sent q hq hph hf =>
    have hport := h.updPort (p := s.cmdPort) fun r _ => r.loadThr_keepsLegal (s.pbuf.read s.cmdPos.toNat)
    exact State.Legal.inPhase
      (s := { s.updPort s.cmdPort (Port.loadThr (s.pbuf.read s.cmdPos.toNat)) with cmdPos := s.cmdPos + 1#10 }) { hport with }
      (hbusy hph (by decide)) (by rw [hph]; split_ifs <;> decide)
  | drained q k hq hph he => exact h.endRaw (hbusy hph (by decide)) k _
  | returned q hq hph => exact (h.updPort fun r _ => r.returnToInput_keepsLegal _).complete _ _ _ _
  | disabled q hq hph hs =>
    have hport := h.updPort (p := s.cmdPort) fun r _ => r.disable_keepsLegal
    exact hport.inPhase (hbusy hph (by decide)) (by decide)
  | switched q d e hq hph he hd => exact (h.updPort fun r _ => r.finishDir_keepsLegal hd e _).complete _ _ _ _
  | delivered q hq hph hr => exact h.deliver _ q
  | timedOut hph => exact h.complete _ _ _ _

/-! ### The scheduler -/

/-- Every scheduler tick sets the countdown anew, so none reads it. -/
theorem schedTick_schedTimer (s : State) (x : Word) : State.schedTick { s with schedTimer := x } = s.schedTick := by
  simp only [State.schedTick]
  cases s.schedState <;> rfl

theorem State.Legal.enterBreak {s : State} (h : s.Legal) : s.enterBreak.Legal := by
  have hstaged :
      (State.eachPort Port.enterCycle { s with schedTimer := s.breakTime.zeroExtend 32 }).LegalButPeriod :=
    { h with
      schedTimer := by
        have := h.breakTime
        simp only [State.eachPort_schedTimer, BitVec.toNat_setWidth]
        omega
      ports := fun q hq => by
        obtain ⟨q₀, hq₀, rfl⟩ := List.mem_map.mp hq
        exact Port.enterCycle_legal (h.ports q₀ hq₀) }
  have hbroken := hstaged.recomputePeriod.eachPort fun q _ => q.ifTxset_keepsLegal fun r => r.breakOn_keepsLegal s.micros
  exact { hbroken with schedState := .inr (.inl rfl) }

theorem State.Legal.enterMab {s : State} (h : s.Legal) : s.enterMab.Legal := by
  have hmarked := h.eachPort fun q _ => q.ifTxset_keepsLegal fun r => r.breakOff_keepsLegal s.micros
  exact
    { hmarked with
      schedState := .inr (.inr (.inl rfl))
      schedTimer := by
        have := h.mabTime
        simp only [State.enterMab, BitVec.toNat_setWidth]
        omega }

/-- The frame period leaves time after the break and the mark, so the countdown of the third phase starts above 0. -/
theorem State.Legal.interFrameTimer_pos {s : State} (h : s.Legal) :
    1 ≤ (s.period - s.breakTime.zeroExtend 32 - s.mabTime.zeroExtend 32).toNat := by
  have hcycle := h.cycle _ (isMaxlen_maxlen s)
  bv_omega

theorem State.Legal.enterInterFrame {s : State} (h : s.Legal) : s.enterInterFrame.Legal := by
  have hstarted := h.eachPort (f := Port.ifTxset fun q => if q.stgValid then q.dmaStart else q) fun q _ =>
    q.ifTxset_keepsLegal fun r => by
      split_ifs with hv
      · exact Port.dmaStart_keepsLegal hv
      · exact .refl r
  exact
    { hstarted with
      schedState := .inr (.inr (.inr rfl))
      schedTimer := h.interFrameTimer_pos }

theorem State.Legal.schedTick {s : State} (h : s.Legal) : s.schedTick.Legal := by
  unfold State.schedTick
  split
  · exact h.enterBreak
  · exact h.enterMab
  · exact h.enterInterFrame
  · exact h.enterBreak
  · exact h.enterBreak

theorem State.Legal.schedCountdown {s : State} (h : s.Legal) : s.schedCountdown.Legal := by
  have htimer := h.schedTimer
  rw [schedCountdown_eq]
  split_ifs with h1
  · rw [schedTick_schedTimer]
    exact h.schedTick
  · exact { h with schedTimer := by dsimp only; bv_omega }

theorem State.Legal.statsCountdown {s : State} (h : s.Legal) : s.statsCountdown.Legal := by
  unfold State.statsCountdown
  dsimp only
  split_ifs
  · exact State.Legal.eachPort (s := { s with statsTimer := BitVec.ofNat 32 Config.statsWindowUs }) { h with }
      fun q _ => q.latchUps_keepsLegal
  · exact { h with }

/-! ### Reset, tick and step -/

/-- A port of a block after reset is one of `Port.reset`. -/
theorem State.mem_afterReset {n k : Nat} {q : Port} (h : q ∈ (State.afterReset n k).ports) : ∃ p, q = Port.reset k p := by
  obtain ⟨p, _, rfl⟩ := List.mem_map.mp h
  exact ⟨p, rfl⟩

/-- No port has anything to send after reset. -/
theorem State.afterReset_maxlen (n k : Nat) : (State.afterReset n k).maxlen = 0 := by
  refine (isMaxlen_iff.mp ⟨fun q hq => ?_, .inl rfl⟩).symm
  obtain ⟨p, rfl⟩ := State.mem_afterReset hq
  exact ⟨Nat.le_refl 0, nofun⟩

theorem State.afterReset_legal (n k : Nat) : (State.afterReset n k).Legal := by
  refine (State.legal_iff _).mpr ⟨?_, ?_⟩
  · exact
      { schedState := .inl rfl
        schedTimer := show 1 ≤ (1204#32).toNat by decide
        slots := show 1 ≤ (512#10).toNat ∧ (512#10).toNat ≤ 512 by decide
        breakTime := show 92 ≤ (176#20).toNat by decide
        mabTime := show 12 ≤ (12#20).toNat by decide
        busy := show false = true ↔ CmdPhase.none ≠ .none by decide
        ports := fun q hq => by
          obtain ⟨p, rfl⟩ := State.mem_afterReset hq
          exact Port.reset_legal k p }
  · rw [State.afterReset_maxlen]
    exact show 1204#32 = BitVec.ofNat 32 (periodOf 176 12 0 0) by decide

theorem State.Legal.tick {s : State} (h : s.Legal) : s.tick.Legal :=
  tick_keeps (P := State.Legal)
    (fun _ h => { h with })
    (fun _ h => h.eachPort fun q _ => q.charEnd_keepsLegal)
    (fun _ h => h.eachPort fun q _ => q.idleTimer_keepsLegal)
    (fun _ h => h.statsCountdown)
    (fun _ h => h.schedCountdown)
    (fun _ h => h.eachPort fun q _ => q.dmaTransfer_keepsLegal)
    (fun _ h => h.commandStep)
    (fun _ h => h.eachPort fun q _ => q.charStart_keepsLegal _) h

/-- Settles O57, event by event: what a step writes is either nothing legality reads, or is legal as it is written. -/
theorem everyStepKeepsTheStateLegal : Obligations.EveryStepKeepsTheStateLegal := by
  intro s t hs hstep
  refine step_keeps (P := State.Legal) ?inputs ?answered ?arg ?pbuf ?rejected ?command ?reset ?tick ?line hs hstep
  case inputs => exact fun _ _ h => { h with }
  case answered => rintro s _ h ⟨_, _, _, rfl⟩; exact { h with }
  case arg => exact fun _ _ h _ => { h with }
  case pbuf => exact fun _ _ _ h _ _ => { h with }
  case rejected => exact fun s v e h _ => State.Legal.complete (s := State.load v { s with busErr := false }) { h with } _ _ _ _
  case command => exact fun s t v i h _ _ hc => hc.legal (s := State.load v { s with busErr := false }) { h with }
  case reset => exact fun s _ => { State.afterReset_legal s.ports.length (s.resets + 1) with }
  case tick => exact fun _ h => h.tick
  case line =>
    rintro s p f h (rfl | rfl | ⟨v, rfl⟩)
    · exact h.updPort fun q _ => q.lineError_keepsLegal
    · exact h.updPort fun q _ => q.lineMark_keepsLegal
    · exact h.updPort fun q _ => q.lineChar_keepsLegal _ v

end Sys2Proof.Machine
end

section
/-! The register map (10_state.md R29 to R43): the registers of the host map as sums of their fields, and what an aligned read
answers at each offset. -/

namespace Sys2Proof.Machine

/-! ### Words as sums of their fields -/

theorem toNat_append_eq_add {m n : Nat} (x : BitVec m) (y : BitVec n) : (x ++ y).toNat = x.toNat * 2 ^ n + y.toNat := by
  rw [BitVec.toNat_append, ← Nat.shiftLeft_add_eq_or_of_lt y.isLt, Nat.shiftLeft_eq]

theorem flag_toNat (b : Bool) : (flag b).toNat = b.toNat := BitVec.toNat_ofBool b

theorem State.statusWord_toNat (s : State) :
    s.statusWord.toNat = s.busy.toNat + 2 * s.valid.toNat + 4 * s.ovr.toNat + 16 * s.err.bits.toNat + 256 * s.opc.toNat := by
  simp only [State.statusWord, toNat_append_eq_add, flag_toNat, BitVec.toNat_ofNat]
  omega

theorem State.schedWord_toNat (s : State) : s.schedWord.toNat = s.schedState.bits.toNat := by
  simp only [State.schedWord, toNat_append_eq_add, BitVec.toNat_ofNat]
  omega

theorem State.hwcfgWord_toNat {s : State} (h : s.ports.length < 16) :
    s.hwcfgWord.toNat = s.ports.length + 16 * 2 + 256 * 3 + 4096 * 6 + 65536 * 0xCC + 16777216 * 0x01 := by
  simp only [State.hwcfgWord, toNat_append_eq_add, BitVec.toNat_ofNat, Config.uidLen, Config.rdmRingBits,
    Config.dmxRingBits]
  omega

theorem Port.pstatWord_toNat (q : Port) :
    q.pstatWord.toNat = q.dir.bits.toNat + 4 * q.enableData.toNat + 8 * q.txset.toNat
        + 16 * q.rxState.bits.toNat + 256 * q.brk.toNat + 512 * q.thrFull.toNat + 1024 * q.tsrBusy.toNat
        + 2048 * q.dmaBusy.toNat + 4096 * q.stgValid.toNat + 8192 * q.stgSlot.toNat + 16384 * q.txWr.toNat
        + 32768 * q.txRd.toNat + 65536 * q.rxQuietArmed.toNat := by
  simp only [Port.pstatWord, toNat_append_eq_add, flag_toNat, BitVec.toNat_ofNat, Config.txSlotBits]
  omega

theorem Port.ringsWord_toNat (q : Port) :
    q.ringsWord.toNat = q.dmxHead.toNat + 256 * q.dmxTail.toNat + 65536 * q.rdmHead.toNat + 16777216 * q.rdmTail.toNat := by
  have hbyte : ∀ {w : Nat} (i : BitVec w), w ≤ 8 → (i.zeroExtend 8).toNat = i.toNat :=
    fun _ h => BitVec.toNat_setWidth_of_le h
  simp only [Port.ringsWord, toNat_append_eq_add, hbyte, Config.dmxRingBits, Config.rdmRingBits, Nat.reduceLeDiff]
  omega

theorem Port.lensWord_toNat (q : Port) : q.lensWord.toNat = q.curLen.toNat + 65536 * q.stgLen.toNat := by
  simp only [Port.lensWord, toNat_append_eq_add, BitVec.toNat_ofNat]
  omega

theorem Buffer.word_toNat (b : Buffer) (i : Nat) :
    (b.word i).toNat = (b.read i).toNat + 256 * (b.read (i + 1)).toNat + 65536 * (b.read (i + 2)).toNat
      + 16777216 * (b.read (i + 3)).toNat := by
  simp only [Buffer.word, toNat_append_eq_add]
  omega

/-! ### What an offset names -/

theorem globalReg_lt {a : Nat} {r : Reg} (h : globalReg a = some r) : a < 0x38 := by
  unfold globalReg at h
  split at h
  case h_15 => cases h -- no row of the map
  all_goals omega

theorem portReg_lt {p off : Nat} {r : Reg} (h : portReg p off = some r) : off < 0x20 := by
  unfold portReg at h
  split at h
  case h_9 => cases h -- no row of the map
  all_goals omega

theorem regAt_of_globalReg {n a : Nat} {r : Reg} (h : globalReg a = some r) : regAt n a = some r := by
  have := globalReg_lt h
  rw [regAt, if_pos (by omega), h]

/-- An offset of the block of port `p`. -/
theorem regAt_port {n p off : Nat} (hp : p < 4) (ho : off < 0x40) :
    regAt n (0x100 + 0x40 * p + off) = if p < n then portReg p off else none := by
  have hdiv : (0x100 + 0x40 * p + off - 0x100) / 0x40 = p := by omega
  have hmod : (0x100 + 0x40 * p + off - 0x100) % 0x40 = off := by omega
  rw [regAt, if_neg (by omega), hdiv, hmod]
  exact if_congr (and_iff_right (by omega)) rfl rfl

theorem regAt_reserved_global {n a : Nat} (h : 0x38 ≤ a) (h' : a < 0x100) : regAt n a = none := by
  rw [regAt, if_pos h', Option.eq_none_iff_forall_ne_some]
  intro r hr
  have := globalReg_lt hr
  omega

theorem regAt_above {n a : Nat} (h : 0x200 ≤ a) : regAt n a = none := by
  rw [regAt, if_neg (by omega), if_neg (by omega)]

/-! ### What a read answers -/

theorem State.busWord_of_reg {s : State} {a : Nat} {r : Reg} (h : regAt s.ports.length a = some r) :
    s.busWord a = s.readReg r := by
  simp only [State.busWord, h]

theorem State.busWord_pbuf {s : State} {i : Nat} (h : i ≤ 508) : s.busWord (0x1000 + i) = s.pbuf.word i := by
  simp only [State.busWord, regAt_above (show 0x200 ≤ 0x1000 + i by omega)]
  rw [if_pos (by omega), Nat.add_sub_cancel_left]

theorem State.busWord_rbuf {s : State} {i : Nat} (h : i ≤ 512) : s.busWord (0x1400 + i) = s.rbufWord i := by
  simp only [State.busWord, regAt_above (show 0x200 ≤ 0x1400 + i by omega)]
  rw [if_neg (by omega), if_pos (by omega), Nat.add_sub_cancel_left]

/-- An offset that names no register and lies in no buffer reads 0 (20_memory.md R87). -/
theorem State.busWord_reserved {s : State} {a : Nat} (h : regAt s.ports.length a = none)
    (hp : ¬(0x1000 ≤ a ∧ a ≤ 0x11FC)) (hr : ¬(0x1400 ≤ a ∧ a ≤ 0x1600)) : s.busWord a = 0#32 := by
  simp only [State.busWord, h]
  rw [if_neg hp, if_neg hr]

/-- An aligned read answers the word at its offset, in the state before the step. -/
theorem step_hostRead_busRdata {s t : State} {addr : BitVec 13} {rest : List Event} (hi : s.inputs = .hostRead addr :: rest)
    (ha : addr.toNat % 4 = 0) (h : step s = .next t) : t.busRdata = s.busWord addr.toNat := by
  rw [step_cons hi] at h
  have ht : State.hostRead addr { s with inputs := rest } = t := Host.Outcome.next.inj h
  rw [← ht, State.hostRead, if_pos (by simp [aligned, ha])]
  rfl

/-- Settles O49: each offset by the register, the buffer or the reserved range it lies in. -/
theorem globalRegistersReadAtTheirOffsets : Obligations.GlobalRegistersReadAtTheirOffsets := by
  intro s t addr rest hi ha hstep
  rw [step_hostRead_busRdata hi ha hstep]
  have hreg : ∀ {a : BitVec 13} (r : Reg), globalReg a.toNat = some r → addr = a → s.busWord addr.toNat = s.readReg r :=
    fun r hr h => State.busWord_of_reg (regAt_of_globalReg (h ▸ hr))
  have hregNat : ∀ {a : BitVec 13} (r : Reg) {n : Nat}, globalReg a.toNat = some r → (s.readReg r).toNat = n →
      addr = a → (s.busWord addr.toNat).toNat = n :=
    fun r _ hr hn h => (congrArg BitVec.toNat (hreg r hr h)).trans hn
  refine ⟨hreg .cmd rfl, hreg .arg rfl, hregNat .status rfl s.statusWord_toNat, hreg .result0 rfl, hreg .result1 rfl,
    hreg .micros rfl, hregNat .sched rfl s.schedWord_toNat, hreg .period rfl,
    hregNat .breakTime rfl (BitVec.toNat_setWidth_of_le (by decide)),
    hregNat .mabTime rfl (BitVec.toNat_setWidth_of_le (by decide)),
    hregNat .periodReq rfl (BitVec.toNat_setWidth_of_le (by decide)),
    hregNat .slots rfl (BitVec.toNat_setWidth_of_le (by decide)), hreg .schedTimer rfl,
    fun h hn => hregNat .hwcfg rfl (State.hwcfgWord_toNat hn) h,
    ?reservedGlobal, ?reservedLow, ?pbuf, ?reservedPbuf, ?rbuf, ?rbufLast, ?reservedTop⟩
  case reservedGlobal =>
    intro h h'
    exact State.busWord_reserved (regAt_reserved_global h (by omega)) (by omega) (by omega)
  case reservedLow =>
    intro h h'
    exact State.busWord_reserved (regAt_above h) (by omega) (by omega)
  case pbuf =>
    intro i h hlt
    rw [h, State.busWord_pbuf (by omega), Buffer.word_toNat]
  case reservedPbuf =>
    intro h h'
    exact State.busWord_reserved (regAt_above (by omega)) (by omega) (by omega)
  case rbuf =>
    intro i h hlt
    have hword : i + 3 < Config.rbufDataBytes := by simp only [Config.rbufDataBytes]; omega
    rw [h, State.busWord_rbuf (by omega), State.rbufWord, if_pos hword, Buffer.word_toNat]
  case rbufLast =>
    intro h
    rw [h, State.busWord_rbuf (i := 512) (by omega), State.rbufWord, if_neg (by decide)]
    exact BitVec.toNat_setWidth_of_le (by decide)
  case reservedTop =>
    intro h
    exact State.busWord_reserved (regAt_above (by omega)) (by omega) (by omega)

/-- Settles O50: the block and the offset in it select the register, which reads the port's field. -/
theorem portRegistersReadAtTheirOffsets : Obligations.PortRegistersReadAtTheirOffsets := by
  intro s t addr p off rest hi haddr hoff halign hp hstep
  rw [step_hostRead_busRdata hi (by omega) hstep, haddr]
  refine ⟨fun habsent => ?_, fun q hq => ?_⟩
  · refine State.busWord_reserved ?_ (by omega) (by omega)
    rw [regAt_port hp hoff, ite_eq_right_iff, Option.eq_none_iff_forall_ne_some]
    intro hlt r hr
    have := portReg_lt hr
    omega
  · have hreg : ∀ (r : Reg) {f : Port → Word}, portReg p off = some r → s.readReg r = s.readPort p f →
        s.busWord (0x100 + 0x40 * p + off) = f q := by
      intro r f hr hf
      have hlt : p < s.ports.length := (List.getElem?_eq_some_iff.mp hq).1
      rw [State.busWord_of_reg (r := r) (by rw [regAt_port hp hoff, if_pos hlt, hr]), hf, State.readPort, hq]
    refine ⟨?pstat, ?rings, ?tn, ?lastSendTs, ?rxDoneTs, ?ups, ?rxFrames, ?lens⟩ <;> rintro rfl
    case pstat => rw [hreg (.pstat p) rfl rfl, Port.pstatWord_toNat]
    case rings => rw [hreg (.rings p) rfl rfl, Port.ringsWord_toNat]
    case tn =>
      rw [hreg (.tn p) (f := fun q => q.tn.zeroExtend 32) rfl rfl]
      exact BitVec.toNat_setWidth_of_le (by decide)
    case lastSendTs => exact hreg (.lastSendTs p) rfl rfl
    case rxDoneTs => exact hreg (.rxDoneTs p) rfl rfl
    case ups => exact hreg (.ups p) rfl rfl
    case rxFrames => exact hreg (.rxFrames p) rfl rfl
    case lens => rw [hreg (.lens p) rfl rfl, Port.lensWord_toNat]

end Sys2Proof.Machine
end

section
/-! The clock over a tick (10_state.md R33), the pins (R57) and the state after a reset (R60, 70_reset_and_hazards.md R360). -/

namespace Sys2Proof.Machine

/-! ### The clock: only T1 writes `micros`, and no substep consumes an event -/

theorem statsCountdown_clock (s : State) : s.statsCountdown.micros = s.micros ∧ s.statsCountdown.inputs = s.inputs := by
  unfold State.statsCountdown
  dsimp only
  split_ifs <;> exact ⟨rfl, rfl⟩

theorem schedTick_clock (s : State) : s.schedTick.micros = s.micros ∧ s.schedTick.inputs = s.inputs := by
  unfold State.schedTick
  split <;> exact ⟨rfl, rfl⟩

theorem schedCountdown_clock (s : State) : s.schedCountdown.micros = s.micros ∧ s.schedCountdown.inputs = s.inputs := by
  rw [schedCountdown_eq]
  split_ifs
  · exact schedTick_clock _
  · exact ⟨rfl, rfl⟩

theorem beginRaw_clock (k : RawSend) (p : Nat) (q : Port) (s : State) :
    (s.beginRaw k p q).micros = s.micros ∧ (s.beginRaw k p q).inputs = s.inputs := by
  cases k <;> simp [State.beginRaw, State.prepareRaw, State.prepareMessage, State.startBreak, State.firstByte]

theorem endRaw_clock (k : RawSend) (p : Nat) (s : State) :
    (s.endRaw k p).micros = s.micros ∧ (s.endRaw k p).inputs = s.inputs := by
  cases k <;> simp [State.endRaw]

theorem commandStep_clock (s : State) : s.commandStep.micros = s.micros ∧ s.commandStep.inputs = s.inputs := by
  generalize hu : s.commandStep = u
  cases hu ▸ commandStep_cases s with
  | broke q k hk hq hph => exact beginRaw_clock k _ q s
  | responded q hq hph => exact beginRaw_clock .respondDisc _ q s
  | drained q k hq hph he => exact endRaw_clock k _ s
  | _ => exact ⟨rfl, rfl⟩

theorem tick_clock (s : State) : s.tick.micros = s.micros + 1#32 ∧ s.tick.inputs = s.inputs := by
  obtain ⟨t1, t2, t3, t4, t5, t6, t7, rfl, rfl, rfl, h4, h5, rfl, h7, ht⟩ := tick_substeps s
  obtain ⟨hm4, hi4⟩ := h4 ▸ statsCountdown_clock _
  obtain ⟨hm5, hi5⟩ := h5 ▸ schedCountdown_clock _
  obtain ⟨hm7, hi7⟩ := h7 ▸ commandStep_clock _
  rw [ht]
  exact ⟨hm7.trans (hm5.trans hm4), hi7.trans (hi5.trans hi4)⟩

/-- Settles O17: with a tick pending or nothing pending, the step is a tick, which advances the clock. -/
theorem everyTickAdvancesMicros : Obligations.EveryTickAdvancesMicros := by
  intro s t hinputs hstep
  obtain ⟨e, rest, hi, he⟩ := step_cases hstep
  obtain ⟨rfl, hrest⟩ : e = .tick ∧ rest = s.inputs.tail := by
    rcases hi with hi | ⟨hi, rfl, rfl⟩
    · rcases hinputs with h | ⟨rest', h⟩
      · cases hi.symm.trans h
      · cases hi.symm.trans h
        exact ⟨rfl, by rw [h]; rfl⟩
    · exact ⟨rfl, by rw [hi]; rfl⟩
  rw [← hrest, ← Host.Outcome.next.inj he]
  exact tick_clock _

/-! ### The pins -/

/-- Settles O21, by cases on the break condition and the transmitter. -/
theorem pinsFollowDirectionAndBreak : Obligations.PinsFollowDirectionAndBreak := by
  intro q
  refine ⟨by simp [Port.dePin], ?_⟩
  unfold Port.txdPin
  cases q.brk
  · cases q.tsrBusy <;> simp
  · simp

/-! ### Reset -/

theorem Port.reset_atReset (k p : Nat) : (Port.reset k p).AtReset where
  dir := rfl
  enableData := rfl
  txset := rfl
  rxState := rfl
  rxQuiet := rfl
  rxQuietArmed := rfl
  rings := ⟨rfl, rfl, rfl, rfl⟩
  counters := ⟨rfl, rfl, rfl⟩
  stamps := ⟨rfl, rfl, rfl⟩
  store := ⟨rfl, rfl, rfl, fun _ => by simp [Port.reset]⟩
  staged := ⟨rfl, rfl, rfl⟩
  channel := ⟨rfl, rfl, rfl, rfl⟩
  transmitter := ⟨rfl, rfl, rfl, rfl⟩
  unwritten := by simp [Port.reset, Buffer.unwritten]
  wire := rfl

theorem State.afterReset_atReset (n k : Nat) : (State.afterReset n k).AtReset where
  micros := rfl
  scheduler := ⟨rfl, rfl, rfl⟩
  settings := ⟨rfl, rfl, rfl, rfl⟩
  statsTimer := rfl
  mailbox := ⟨rfl, rfl, rfl, rfl⟩
  status := ⟨rfl, rfl, rfl, rfl, rfl⟩
  engine := ⟨rfl, rfl, rfl, rfl⟩
  buffers := ⟨rfl, rfl⟩
  pins := ⟨rfl, rfl, fun q hq => by obtain ⟨p, rfl⟩ := State.mem_afterReset hq; exact ⟨rfl, rfl⟩⟩
  ports q hq := by obtain ⟨p, rfl⟩ := State.mem_afterReset hq; exact Port.reset_atReset k p

theorem State.length_afterReset (n k : Nat) : (State.afterReset n k).ports.length = n := by
  simp [State.afterReset]

/-- Settles O54: the reset step is `State.afterReset` with the number of ports and the events kept. -/
theorem resetStepRestoresTheResetTable : Obligations.ResetStepRestoresTheResetTable := by
  intro s rest hi
  exact ⟨State.performReset { s with inputs := rest }, step_cons hi,
    { State.afterReset_atReset s.ports.length (s.resets + 1) with }, State.length_afterReset _ _, rfl⟩

/-- Settles O55: `State.reset` is the block of four ports after reset number 0. -/
theorem resetStateHasTheResetTable : Obligations.ResetStateHasTheResetTable :=
  ⟨State.afterReset_atReset _ _, State.length_afterReset _ _⟩

/-! ### The invariants at reset -/

theorem Port.AtReset.still {q : Port} (h : q.AtReset) : q.Still := by
  obtain ⟨hthr, htsr, _, hbrk⟩ := h.transmitter
  exact ⟨h.channel.1, hthr, htsr, hbrk⟩

/-- No command is in progress and no port has anything in flight. -/
theorem State.AtReset.quiet {s : State} (h : s.AtReset) : s.Quiet := by
  intro p q hq
  have hport : q.AtReset := h.ports q (List.mem_of_getElem? hq)
  exact
    { latch := fun hset => by rw [hport.txset] at hset; cases hset
      brk := fun hb => by rw [hport.still.2.2.2] at hb; cases hb
      idle := fun _ _ => hport.still
      command := fun _ => by rw [h.engine.1]; exact fun _ => hport.still }

theorem not_published_self {w : Nat} (a i : BitVec w) : ¬Published a a i := by
  simp [Published]

/-- A port after reset is in the receive state IDLE and has published nothing. -/
theorem Port.AtReset.rxBounds {q : Port} (h : q.AtReset) : q.RxBounds := by
  obtain ⟨hdh, hdt, hrh, hrt⟩ := h.rings
  have hstate : ∀ {x : RxState} {P : Prop}, RxState.idle ≠ x → q.rxState = x → P := fun hne hx =>
    absurd (h.rxState.symm.trans hx) hne
  exact
    { dmxData := hstate (by decide)
      dmxPublished := fun i hi => by rw [hdh, hdt] at hi; exact absurd hi (not_published_self _ i)
      rdmData := hstate (by decide)
      checksumHigh := hstate (by decide)
      checksumLow := hstate (by decide)
      discPreamble := hstate (by decide)
      discUid := hstate (by decide)
      discChecksum := hstate (by decide)
      rdmPublished := fun i hi => by rw [hrh, hrt] at hi; exact absurd hi (not_published_self _ i) }

theorem State.afterReset_indexBounds (n k : Nat) : (State.afterReset n k).IndexBounds where
  ports q hq := ((State.afterReset_atReset n k).ports q hq).rxBounds
  slots := show (512#10).toNat ≤ 512 by decide
  pbuf := .unwritten k .pbuf
  rbuf := .unwritten k .rbuf
  inside p q hq := State.afterReset_inside hq
  cmdLen h := by rcases h with h | h | h | h <;> cases h
  cmdPos h := by cases h

/-- Settles O56: each invariant of the state after reset, for any number of ports. -/
theorem resetStateMeetsTheInvariants : Obligations.ResetStateMeetsTheInvariants :=
  ⟨State.afterReset_legal _ _, (State.afterReset_atReset _ _).quiet, State.afterReset_indexBounds _ _,
    State.afterReset_memoryWf _ _⟩

end Sys2Proof.Machine
end

section
/-! The two bus accesses (20_memory.md R82 to R88): what a read and a write answer in each case of the address and of BUSY, and a
word of a buffer after the word was stored. -/

namespace Sys2Proof.Machine

theorem aligned_iff (addr : BitVec 13) : aligned addr = true ↔ addr.toNat % 4 = 0 := beq_iff_eq

theorem not_misaligned {addr : BitVec 13} (ha : addr.toNat % 4 = 0) : ¬(!aligned addr) = true := by
  simp [aligned, ha]

/-- What a host write can change, and BUSY protects (20_memory.md R86): CMD, ARG and PBUF. -/
def HostWritable (a : Nat) : Prop := a = 0x000 ∨ a = 0x004 ∨ (0x1000 ≤ a ∧ a ≤ 0x11FC)

/-! ### Reads -/

theorem State.hostRead_aligned {s : State} {addr : BitVec 13} (ha : addr.toNat % 4 = 0) :
    s.hostRead addr = { s with busErr := false, busRdata := s.busWord addr.toNat } :=
  if_pos ((aligned_iff addr).mpr ha)

theorem State.hostRead_misaligned {s : State} {addr : BitVec 13} (ha : addr.toNat % 4 ≠ 0) :
    s.hostRead addr = { s with busErr := true, busRdata := 0#32 } :=
  if_neg (mt (aligned_iff addr).mp ha)

theorem step_hostRead_aligned {s : State} {addr : BitVec 13} {rest : List Event} (hi : s.inputs = .hostRead addr :: rest)
    (ha : addr.toNat % 4 = 0) :
    step s = .next { s with inputs := rest, busErr := false, busRdata := s.busWord addr.toNat } :=
  (step_cons hi).trans (congrArg _ (State.hostRead_aligned ha))

theorem step_hostRead_misaligned {s : State} {addr : BitVec 13} {rest : List Event} (hi : s.inputs = .hostRead addr :: rest)
    (ha : addr.toNat % 4 ≠ 0) : step s = .next { s with inputs := rest, busErr := true, busRdata := 0#32 } :=
  (step_cons hi).trans (congrArg _ (State.hostRead_misaligned ha))

/-- Settles O46: an aligned read and a refused one write the two pins. -/
theorem hostReadHasNoSideEffect : Obligations.HostReadHasNoSideEffect := by
  intro s t addr rest hi hstep
  by_cases ha : addr.toNat % 4 = 0
  · rw [step_hostRead_aligned hi ha] at hstep
    cases hstep
    exact ⟨rfl, nofun, absurd ha⟩
  · rw [step_hostRead_misaligned hi ha] at hstep
    cases hstep
    exact ⟨rfl, fun _ => ha, fun _ => rfl⟩

/-! ### Writes -/

theorem hostWrite_misaligned {s : State} {addr : BitVec 13} (v : Word) (ha : addr.toNat % 4 ≠ 0) :
    hostWrite addr v s = .next { s with busErr := true, busRdata := 0#32 } :=
  if_pos (by simp [aligned, ha])

/-- While BUSY is 1 the three writable places answer the same (20_memory.md R86). -/
theorem hostWrite_busy {s : State} {addr : BitVec 13} (v : Word) (ha : addr.toNat % 4 = 0)
    (hw : HostWritable addr.toNat) (hb : s.busy = true) :
    hostWrite addr v s = .next { s with busErr := false, ovr := true } := by
  simp only [hostWrite, if_neg (not_misaligned ha), if_pos hb]
  split_ifs with hcmd harg hpbuf
  · rfl
  · rfl
  · rfl
  · exact absurd hw (not_or.mpr ⟨hcmd, not_or.mpr ⟨harg, hpbuf⟩⟩)

/-- A write to any other place is ignored, whatever BUSY is (20_memory.md R87). -/
theorem hostWrite_elsewhere {s : State} {addr : BitVec 13} (v : Word) (ha : addr.toNat % 4 = 0)
    (hw : ¬HostWritable addr.toNat) : hostWrite addr v s = .next { s with busErr := false } := by
  obtain ⟨hcmd, harg, hpbuf⟩ : _ ∧ _ ∧ _ := by simpa only [HostWritable, not_or] using hw
  simp only [hostWrite, if_neg (not_misaligned ha), if_neg hcmd, if_neg harg, if_neg hpbuf]

theorem hostWrite_arg {s : State} (v : Word) (hb : s.busy = false) :
    hostWrite 0x004#13 v s = .next { s with busErr := false, arg := v } := by
  have hbusy : ¬s.busy = true := by simp [hb]
  simp only [hostWrite, if_neg hbusy]
  rfl

theorem hostWrite_pbuf {s : State} {addr : BitVec 13} (v : Word) (ha : addr.toNat % 4 = 0) (hlo : 0x1000 ≤ addr.toNat)
    (hhi : addr.toNat ≤ 0x11FC) (hb : s.busy = false) :
    hostWrite addr v s =
      .next { s with busErr := false, pbuf := s.pbuf.store (addr.toNat - 0x1000) (wordBytes v) } := by
  have hcmd : ¬addr.toNat = 0x000 := by omega
  have harg : ¬addr.toNat = 0x004 := by omega
  have hbusy : ¬s.busy = true := by simp [hb]
  simp only [hostWrite, if_neg (not_misaligned ha), if_neg hcmd, if_neg harg, if_neg hbusy]
  exact if_pos ⟨hlo, hhi⟩

/-- Settles O47: misaligned accesses, writes to the writable places while BUSY, and writes elsewhere. -/
theorem refusedAndIgnoredAccessesChangeNothing : Obligations.RefusedAndIgnoredAccessesChangeNothing := by
  intro s addr v rest
  refine ⟨?misaligned, ?busy, ?elsewhere⟩
  case misaligned =>
    intro ha e he hi
    rcases List.mem_pair.mp he with rfl | rfl
    · exact step_hostRead_misaligned hi ha
    · exact (step_cons hi).trans (hostWrite_misaligned v ha)
  case busy =>
    intro ha hi hw hb
    exact (step_cons hi).trans (hostWrite_busy v ha hw hb)
  case elsewhere =>
    intro ha hi hw
    exact (step_cons hi).trans (hostWrite_elsewhere v ha hw)

/-! ### A word of a buffer (20_memory.md R88) -/

/-- Byte `k` of a word, least significant first. -/
theorem wordBytes_getElem (v : Word) {k : Nat} (hk : k < (wordBytes v).length) :
    (wordBytes v)[k] = v.extractLsb' (8 * k) 8 := by
  have hk4 : k < 4 := hk
  interval_cases k <;> rfl

theorem Buffer.read_storeWord (b : Buffer) (a : Nat) (v : Word) (i : Nat) :
    (b.store a (wordBytes v)).read i =
      if i < a ∨ a + 4 ≤ i then b.read i else v.extractLsb' (8 * (i - a)) 8 := by
  split_ifs with h
  · exact b.read_store_ne h
  · have hlen : i - a < (wordBytes v).length := show i - a < 4 by omega
    rw [b.read_store_mem (by omega) hlen, wordBytes_getElem]

theorem word_eq_bytes (v : Word) :
    v.extractLsb' 24 8 ++ v.extractLsb' 16 8 ++ v.extractLsb' 8 8 ++ v.extractLsb' 0 8 = v := by
  apply BitVec.eq_of_toNat_eq
  simp only [toNat_append_eq_add, BitVec.extractLsb'_toNat, Nat.shiftRight_eq_div_pow]
  omega

theorem Buffer.word_storeWord (b : Buffer) (a : Nat) (v : Word) : (b.store a (wordBytes v)).word a = v := by
  have hbyte : ∀ k, k < 4 → (b.store a (wordBytes v)).read (a + k) = v.extractLsb' (8 * k) 8 := fun k hk => by
    rw [Buffer.read_storeWord, if_neg (by omega), Nat.add_sub_cancel_left]
  rw [Buffer.word, hbyte 3 (by decide), hbyte 2 (by decide), hbyte 1 (by decide)]
  exact (congrArg _ (hbyte 0 (by decide))).trans (word_eq_bytes v)

/-- Settles O48: the write of each place, then the read at the same address. -/
theorem pbufWordIsWrittenLittleEndianAndReadBack : Obligations.PbufWordIsWrittenLittleEndianAndReadBack := by
  refine ⟨fun s v rest hb hi => ?arg, fun s addr v rest ha hlo hhi hb hi => ?pbuf⟩
  case arg =>
    exact ⟨_, _, (step_cons hi).trans (hostWrite_arg v hb), rfl, step_hostRead_aligned rfl (by decide), rfl, rfl⟩
  case pbuf =>
    obtain ⟨a, haddr⟩ := Nat.exists_eq_add_of_le hlo
    refine ⟨_, _, _, (step_cons hi).trans (hostWrite_pbuf v ha hlo hhi hb), rfl, fun i => ?bytes,
      step_hostRead_aligned rfl ha, rfl, ?word⟩
    case bytes =>
      rw [Buffer.read_storeWord]
      refine if_congr (by omega) rfl ?_
      rw [show i - (addr.toNat - 0x1000) = 0x1000 + i - addr.toNat by omega]
    case word =>
      rw [haddr, State.busWord_pbuf (by omega), Nat.add_sub_cancel_left]
      exact Buffer.word_storeWord _ a v

end Sys2Proof.Machine
end

section
/-! The published entries of the receive rings (20_memory.md R96, 41_receive_fsm.md R182): filling the entry at a head and
advancing the head keep them, and a line event does nothing else to a ring. -/

namespace Sys2Proof.Machine

/-! ### One ring -/

/-- The entry being filled is not published. -/
theorem Published.ne_head {w : Nat} {tail head i : BitVec w} (h : Published tail head i) : i ≠ head := by
  rintro rfl
  exact Nat.lt_irrefl _ h

/-- A successor that does not wrap. -/
theorem toNat_add_one_of_ne_zero {w : Nat} {x : BitVec w} (h : x + 1#w ≠ 0#w) : (x + 1#w).toNat = x.toNat + 1 := by
  have hwrap : (x.toNat + 1) % 2 ^ w ≠ 0 := fun h0 => h (BitVec.eq_of_toNat_eq (by simp [BitVec.toNat_add, h0]))
  have hlt : x.toNat + 1 < 2 ^ w := by
    refine lt_of_le_of_ne x.isLt fun he => hwrap ?_
    rw [he, Nat.mod_self]
  rw [BitVec.toNat_add, BitVec.toNat_ofNat, Nat.add_mod_mod, Nat.mod_eq_of_lt hlt]

/-- Publishing the entry at the head keeps the published ones: the head stops short of the tail (R182). -/
theorem Published.after_publish {w : Nat} {tail head i : BitVec w} (h : Published tail head i) :
    Published tail (publish head tail) i := by
  unfold publish
  split_ifs with hroom
  case neg => exact h
  case pos =>
    have hnext : nextIndex head - tail = head - tail + 1#w := add_sub_right_comm head 1#w tail
    have hne : head - tail + 1#w ≠ 0#w := hnext ▸ sub_ne_zero.mpr hroom
    rw [Published, hnext, toNat_add_one_of_ne_zero hne]
    exact Nat.lt_succ_of_lt h

/-! ### The two rings of a port -/

/-- The two receive rings of a port with their indices. -/
def Port.rings (q : Port) := ((q.dmxRing, q.dmxHead, q.dmxTail), q.rdmRing, q.rdmHead, q.rdmTail)

/-- An operation that takes the port `q` to `r` moves no tail, and leaves every published entry as it is and published. -/
structure Port.KeepsPublished (q r : Port) : Prop where
  dmxTail : r.dmxTail = q.dmxTail
  rdmTail : r.rdmTail = q.rdmTail
  dmx : ∀ i, Published q.dmxTail q.dmxHead i → r.dmxRing.get i = q.dmxRing.get i ∧ Published r.dmxTail r.dmxHead i
  rdm : ∀ i, Published q.rdmTail q.rdmHead i → r.rdmRing.get i = q.rdmRing.get i ∧ Published r.rdmTail r.rdmHead i

theorem Port.KeepsPublished.of_rings {q r : Port} (h : r.rings = q.rings) : q.KeepsPublished r := by
  simp only [Port.rings, Prod.mk.injEq] at h
  obtain ⟨⟨hdring, hdhead, hdtail⟩, hrring, hrhead, hrtail⟩ := h
  exact
    { dmxTail := hdtail
      rdmTail := hrtail
      dmx := fun i hi => ⟨hdring ▸ rfl, by rwa [hdtail, hdhead]⟩
      rdm := fun i hi => ⟨hrring ▸ rfl, by rwa [hrtail, hrhead]⟩ }

theorem Port.KeepsPublished.trans {q r s : Port} (h : q.KeepsPublished r) (h' : r.KeepsPublished s) : q.KeepsPublished s where
  dmxTail := h'.dmxTail.trans h.dmxTail
  rdmTail := h'.rdmTail.trans h.rdmTail
  dmx i hi :=
    have ⟨hentry, hpub⟩ := h.dmx i hi
    ⟨(h'.dmx i hpub).1.trans hentry, (h'.dmx i hpub).2⟩
  rdm i hi :=
    have ⟨hentry, hpub⟩ := h.rdm i hi
    ⟨(h'.rdm i hpub).1.trans hentry, (h'.rdm i hpub).2⟩

/-- What comes after and touches no ring does not matter. -/
theorem Port.KeepsPublished.congr {q r s : Port} (h : q.KeepsPublished r) (hs : s.rings = r.rings) : q.KeepsPublished s :=
  h.trans (.of_rings hs)

theorem Port.setDmxCur_keepsPublished (d : DmxRecord) (q : Port) : q.KeepsPublished (q.setDmxCur d) where
  dmxTail := rfl
  rdmTail := rfl
  dmx _ hi := ⟨Bank.get_put_ne _ hi.ne_head d, hi⟩
  rdm _ hi := ⟨rfl, hi⟩

theorem Port.setRdmCur_keepsPublished (r : RdmBuf) (q : Port) : q.KeepsPublished (q.setRdmCur r) where
  dmxTail := rfl
  rdmTail := rfl
  dmx _ hi := ⟨rfl, hi⟩
  rdm _ hi := ⟨Bank.get_put_ne _ hi.ne_head r, hi⟩

theorem Port.closeDmxFrame_keepsPublished (q : Port) : q.KeepsPublished q.closeDmxFrame :=
  (q.setDmxCur_keepsPublished { q.dmxCur with updates := q.rxFrames + 1#32 }).trans
    { dmxTail := rfl
      rdmTail := rfl
      dmx := fun _ hi => ⟨rfl, hi.after_publish⟩
      rdm := fun _ hi => ⟨rfl, hi⟩ }

theorem Port.rdmComplete_keepsPublished (t : Micros) (q : Port) : q.KeepsPublished (q.rdmComplete t) where
  dmxTail := rfl
  rdmTail := rfl
  dmx _ hi := ⟨rfl, hi⟩
  rdm _ hi := ⟨rfl, hi.after_publish⟩

/-! ### The line events -/

/-- The rule of each receive state fills an entry at a head, and may complete it. -/
theorem Port.charInState_keepsPublished (t : Micros) (v : Byte) (q : Port) : q.KeepsPublished (q.charInState t v) := by
  have hdmx := fun d => q.setDmxCur_keepsPublished d
  have hrdm := fun r => q.setRdmCur_keepsPublished r
  unfold Port.charInState
  cases q.rxState with
  | idle => exact .of_rings rfl
  | preBreak => exact .of_rings rfl
  | brk =>
    dsimp only [Port.charInBreak]
    split_ifs
    · exact (hdmx _).congr rfl
    all_goals exact (hrdm _).congr rfl
  | dmxData =>
    dsimp only [Port.charInDmxData]
    split_ifs
    · exact (hdmx _).trans (Port.closeDmxFrame_keepsPublished _)
    · exact hdmx _
  | rdmData => exact (hrdm _).congr rfl
  | checksumHigh => exact (hrdm _).congr rfl
  | checksumLow =>
    dsimp only [Port.charInChecksumLow]
    split_ifs
    · exact (hrdm _).trans (Port.rdmComplete_keepsPublished t _)
    · exact (hrdm _).congr rfl
  | discPreamble =>
    dsimp only [Port.charInDiscPreamble]
    split_ifs <;> exact (hrdm _).congr rfl
  | discUid =>
    dsimp only [Port.charInDiscUid]
    split_ifs <;> exact (hrdm _).congr rfl
  | discChecksum =>
    dsimp only [Port.charInDiscChecksum]
    split_ifs
    · exact (hrdm _).trans (Port.rdmComplete_keepsPublished t _)
    · exact hrdm _

theorem Port.lineChar_keepsPublished (t : Micros) (v : Byte) (q : Port) : q.KeepsPublished (q.lineChar t v) := by
  unfold Port.lineChar
  split_ifs
  · have hquiet : q.KeepsPublished { q with rxQuiet := 0#32, rxQuietArmed := true } := .of_rings rfl
    exact hquiet.trans (Port.charInState_keepsPublished t v _)
  · exact .of_rings rfl

theorem Port.lineError_keepsPublished (q : Port) : q.KeepsPublished q.lineError := by
  unfold Port.lineError
  split_ifs <;> exact .of_rings rfl

theorem Port.lineMark_keepsPublished (q : Port) : q.KeepsPublished q.lineMark := by
  unfold Port.lineMark
  split_ifs <;> exact .of_rings rfl

/-- Settles O28: each of the three line events keeps what is published. -/
theorem lineEventsKeepPublishedEntries : Obligations.LineEventsKeepPublishedEntries := by
  intro q t v q' hq'
  have hkeeps : q.KeepsPublished q' := by
    simp only [List.mem_cons, List.not_mem_nil, or_false] at hq'
    rcases hq' with rfl | rfl | rfl
    · exact q.lineError_keepsPublished
    · exact q.lineMark_keepsPublished
    · exact q.lineChar_keepsPublished t v
  exact ⟨hkeeps.dmxTail, hkeeps.rdmTail, hkeeps.dmx, hkeeps.rdm⟩

end Sys2Proof.Machine
end

section
/-! The command words (30_encoding.md R110 to R113): the decoder, the encoder and the table of masks and matches agree, by the
shape of a command's immediate, of which there are four, and not by its opcode. -/

namespace Sys2Proof

/-! ### Bits of an appended word -/

theorem append_eq_append_iff {m n : Nat} {x x' : BitVec m} {y y' : BitVec n} : x ++ y = x' ++ y' ↔ x = x' ∧ y = y' := by
  refine ⟨fun h => ⟨?high, ?low⟩, fun ⟨hx, hy⟩ => by rw [hx, hy]⟩
  case high => simpa only [BitVec.extractLsb'_append_eq_left] using congrArg (BitVec.extractLsb' n m) h
  case low => simpa only [BitVec.extractLsb'_append_eq_right] using congrArg (BitVec.extractLsb' 0 n) h

/-- A mask of the high bits selects nothing exactly when the high bits are zero. -/
theorem and_highMask_eq_zero_iff {m n : Nat} (x : BitVec (m + n)) :
    x &&& (BitVec.allOnes m ++ 0#n) = 0#(m + n) ↔ x.extractLsb' n m = 0#m := by
  rw [← BitVec.extractLsb'_append_extractLsb' (x := x), BitVec.and_append, BitVec.and_allOnes, BitVec.and_zero,
    ← BitVec.zero_append_zero, append_eq_append_iff, BitVec.extractLsb'_append_extractLsb']
  exact and_iff_left rfl

/-! ### The shape of an immediate -/

/-- What a command keeps in its imm field (30_encoding.md R112). -/
inductive ImmShape where
  /-- nothing -/
  | empty
  /-- a time, imm[19:0] -/
  | time
  /-- a count, imm[9:0] -/
  | count
  /-- the operands of SET_DIR, imm[2:0] -/
  | mode

/-- The shape of a command's immediate, from the operands of its row (30_encoding.md R112, R113). -/
def Instr.immShape : Instr → ImmShape
  | .nop | .getDmx _ | .getUps _ | .rdmSend _ | .rdmRecv _ | .rdmRecvTo _ => .empty
  | .setBreak _ | .setMab _ | .setPeriod _ => .time
  | .setSlots _ | .txdata _ _ | .rdmSendraw _ _ | .rdmRespondRaw _ _ | .rdmRespondDisc _ _ => .count
  | .setDir _ _ _ => .mode

/-- The must-be-zero bits of imm, as a mask. -/
def ImmShape.mask : ImmShape → BitVec 20
  | .empty => BitVec.allOnes 20
  | .time => 0#20
  | .count => BitVec.allOnes 10 ++ 0#10
  | .mode => BitVec.allOnes 17 ++ 0#3

/-- A must-be-zero bit is 1, as the decoder tests it. -/
def ImmShape.reserved (w : Word) : ImmShape → Bool
  | .empty => reservedAll w
  | .time => false
  | .count => reservedAbove10 w
  | .mode => reservedAbove3 w

/-- The imm field written again from the operands read from it. -/
def ImmShape.rewritten (imm : BitVec 20) : ImmShape → BitVec 20
  | .empty => 0#20
  | .time => imm
  | .count => 0#10 ++ imm10 imm
  | .mode => 0#17 ++ immE imm ++ immD imm

theorem ImmShape.and_mask_eq_zero_iff (k : ImmShape) (w : Word) : immField w &&& k.mask = 0#20 ↔ k.reserved w = false := by
  cases k with
  | empty => simp only [mask, reserved, reservedAll, BitVec.and_allOnes, bne_eq_false_iff_eq]
  | time => simp only [mask, reserved, BitVec.and_zero]
  | count =>
    simpa only [mask, reserved, reservedAbove10, bne_eq_false_iff_eq] using
      and_highMask_eq_zero_iff (m := 10) (n := 10) (immField w)
  | mode =>
    simpa only [mask, reserved, reservedAbove3, bne_eq_false_iff_eq] using
      and_highMask_eq_zero_iff (m := 17) (n := 3) (immField w)

theorem ImmShape.rewritten_eq {k : ImmShape} {w : Word} (h : k.reserved w = false) : k.rewritten (immField w) = immField w := by
  cases k with
  | empty => exact (bne_eq_false_iff_eq.mp h).symm
  | time => rfl
  | count => exact (imm10_of_zero (bne_eq_false_iff_eq.mp h)).symm
  | mode => exact (imm3_of_zero (bne_eq_false_iff_eq.mp h)).symm

@[simp] theorem imm10_append (n : BitVec 10) : imm10 (0#10 ++ n) = n := BitVec.extractLsb'_append_eq_right

@[simp] theorem immD_append (e : BitVec 1) (d : BitVec 2) : immD (0#17 ++ e ++ d) = d := BitVec.extractLsb'_append_eq_right

@[simp] theorem immE_append (e : BitVec 1) (d : BitVec 2) : immE (0#17 ++ e ++ d) = e :=
  (BitVec.extractLsb'_append_eq_of_le (Nat.le_refl 2)).trans BitVec.extractLsb'_append_eq_right

/-! ### The operands of a word -/

/-- The command of the same row as `i` with the operands the fields of `w` hold. -/
def Instr.readFrom (w : Word) : Instr → Instr
  | .nop => .nop
  | .setBreak _ => .setBreak (immField w)
  | .setMab _ => .setMab (immField w)
  | .setPeriod _ => .setPeriod (immField w)
  | .setSlots _ => .setSlots (imm10 (immField w))
  | .setDir _ _ _ => .setDir (portField w) (immE (immField w)) (immD (immField w))
  | .txdata _ _ => .txdata (portField w) (imm10 (immField w))
  | .getDmx _ => .getDmx (portField w)
  | .getUps _ => .getUps (portField w)
  | .rdmSendraw _ _ => .rdmSendraw (portField w) (imm10 (immField w))
  | .rdmSend _ => .rdmSend (portField w)
  | .rdmRecv _ => .rdmRecv (portField w)
  | .rdmRecvTo _ => .rdmRecvTo (portField w)
  | .rdmRespondRaw _ _ => .rdmRespondRaw (portField w) (imm10 (immField w))
  | .rdmRespondDisc _ _ => .rdmRespondDisc (portField w) (imm10 (immField w))

@[simp] theorem Instr.readFrom_row (w : Word) (i : Instr) : (i.readFrom w).row = i.row := by cases i <;> rfl

@[simp] theorem Instr.readFrom_opcode (w : Word) (i : Instr) : (i.readFrom w).opcode = i.opcode := by cases i <;> rfl

@[simp] theorem Instr.readFrom_portBits (w : Word) (i : Instr) :
    (i.readFrom w).portBits = if i.format = .g then 0#4 else portField w := by cases i <;> rfl

@[simp] theorem Instr.readFrom_immBits (w : Word) (i : Instr) :
    (i.readFrom w).immBits = i.immShape.rewritten (immField w) := by cases i <;> rfl

/-- No operand is lost in the word: each lies in a field of its own. -/
theorem Instr.readFrom_encode (i : Instr) : i.readFrom (encode i) = i := by
  cases i <;> simp only [readFrom, portField_encode, immField_encode, portBits, immBits, imm10_append, immD_append, immE_append]

/-! ### The rows of the table -/

/-- The mask of a row covers the opcode, the port field of a global command, and the must-be-zero bits of imm. -/
theorem Instr.row_mask (i : Instr) :
    i.row.mask = 0xFF#8 ++ (if i.format = .g then 0xF#4 else 0#4) ++ i.immShape.mask := by
  cases i <;> rw [row, format, immShape, ImmShape.mask] <;> decide

theorem Instr.row_pattern (i : Instr) : i.row.pattern = i.opcode ++ 0#4 ++ 0#20 := by
  cases i <;> rw [row, opcode] <;> decide

/-- A word matches a row exactly when it has the opcode, port field 0 if the command is global, and no must-be-zero bit. -/
theorem matchesRow_iff (w : Word) (i : Instr) : w &&& i.row.mask = i.row.pattern ↔
    opcodeField w = i.opcode ∧ (i.format = .g → portField w = 0#4) ∧ i.immShape.reserved w = false := by
  have hop : opcodeField w &&& 0xFF#8 = opcodeField w := BitVec.and_allOnes
  have hport : portField w &&& 0xF#4 = portField w := BitVec.and_allOnes
  rw [i.row_mask, i.row_pattern]
  conv_lhs =>
    rw [word_eq_fields w, fields_and, append_eq_append_iff, append_eq_append_iff, hop, ImmShape.and_mask_eq_zero_iff,
      and_assoc]
  split_ifs with hg
  · simp only [hport, hg, forall_const]
  · simp only [BitVec.and_zero, hg, false_imp_iff]

/-- Each command's own word matches its row (30_encoding.md R113). -/
theorem encode_matchesRow : ∀ i : Instr, encode i &&& i.row.mask = i.row.pattern
  | .nop => Laws.TableMatch.nop
  | .setBreak us => Laws.TableMatch.setBreak us
  | .setMab us => Laws.TableMatch.setMab us
  | .setPeriod us => Laws.TableMatch.setPeriod us
  | .setSlots n => Laws.TableMatch.setSlots n
  | .setDir port e d => Laws.TableMatch.setDir port e d
  | .txdata port len => Laws.TableMatch.txdata port len
  | .getDmx port => Laws.TableMatch.getDmx port
  | .getUps port => Laws.TableMatch.getUps port
  | .rdmSendraw port len => Laws.TableMatch.rdmSendraw port len
  | .rdmSend port => Laws.TableMatch.rdmSend port
  | .rdmRecv port => Laws.TableMatch.rdmRecv port
  | .rdmRecvTo port => Laws.TableMatch.rdmRecvTo port
  | .rdmRespondRaw port len => Laws.TableMatch.rdmRespondRaw port len
  | .rdmRespondDisc port len => Laws.TableMatch.rdmRespondDisc port len

/-- A word that matches a row is the word of the command read from it. -/
theorem encode_readFrom {w : Word} {i : Instr} (h : w &&& i.row.mask = i.row.pattern) : encode (i.readFrom w) = w := by
  obtain ⟨hop, hport, himm⟩ := (matchesRow_iff w i).mp h
  have hp : (if i.format = .g then 0#4 else portField w) = portField w := by
    split_ifs with hg
    · exact (hport hg).symm
    · rfl
  conv_rhs => rw [word_eq_fields w]
  simp only [encode, Instr.readFrom_opcode, Instr.readFrom_portBits, Instr.readFrom_immBits, hp, ImmShape.rewritten_eq himm, hop]

/-! ### The decoder by the opcode of its word -/

/-- The opcodes that 30_encoding.md R116 reserves. -/
def ReservedOpcode (op : Nat) : Prop := (0x05 ≤ op ∧ op ≤ 0x0F) ∨ (0x14 ≤ op ∧ op ≤ 0x1F) ∨ (0x26 ≤ op ∧ op ≤ 0xFF)

theorem decode_of_opcode {w : Word} {i : Instr} (h : opcodeField w = i.opcode) :
    decode w = if i.format = .g then decodeG w (i.immShape.reserved w) (i.readFrom w)
      else decodeP w (i.immShape.reserved w) (i.readFrom w) := by
  unfold decode
  rw [h]
  cases i <;> rfl

theorem decode_reservedOpcode {w : Word} (h : ReservedOpcode (opcodeField w).toNat) : decode w = .error .reservedOpcode := by
  unfold ReservedOpcode at h
  unfold decode
  split
  case h_16 => rfl
  all_goals omega

/-- A command of each row of the table. -/
def commandOfEachRow : List Instr :=
  [.nop, .setBreak 0#20, .setMab 0#20, .setPeriod 0#20, .setSlots 0#10, .setDir 0#4 0#1 0#2, .txdata 0#4 0#10, .getDmx 0#4,
    .getUps 0#4, .rdmSendraw 0#4 0#10, .rdmSend 0#4, .rdmRecv 0#4, .rdmRecvTo 0#4, .rdmRespondRaw 0#4 0#10,
    .rdmRespondDisc 0#4 0#10]

/-- The table of R113 and the reserved ranges of R116 leave no opcode out. -/
theorem opcode_assigned_or_reserved (op : BitVec 8) : (∃ i ∈ commandOfEachRow, op = i.opcode) ∨ ReservedOpcode op.toNat := by
  unfold ReservedOpcode
  revert op
  decide

theorem decode_of_matchesRow {w : Word} {i : Instr} (h : w &&& i.row.mask = i.row.pattern) : decode w = .ok (i.readFrom w) := by
  obtain ⟨hop, hport, himm⟩ := (matchesRow_iff w i).mp h
  rw [decode_of_opcode hop, himm]
  split_ifs with hg
  · exact if_neg (not_not.mpr (hport hg))
  · rfl

/-- A word that decodes matches a row, and decodes to the command read from it. -/
theorem decode_ok {w : Word} {i : Instr} (h : decode w = .ok i) :
    ∃ j : Instr, w &&& j.row.mask = j.row.pattern ∧ i = j.readFrom w := by
  rcases opcode_assigned_or_reserved (opcodeField w) with ⟨j, -, hop⟩ | hreserved
  · rw [decode_of_opcode hop] at h
    split_ifs at h with hg
    · obtain ⟨rfl, hport, himm⟩ := decodeG_ok h
      exact ⟨j, (matchesRow_iff w j).mpr ⟨hop, fun _ => hport, himm⟩, rfl⟩
    · obtain ⟨rfl, himm⟩ := decodeP_ok h
      exact ⟨j, (matchesRow_iff w j).mpr ⟨hop, fun hg' => absurd hg' hg, himm⟩, rfl⟩
  · rw [decode_reservedOpcode hreserved] at h
    exact absurd h nofun

/-- Settles O1: a command's word matches its row, and reading the operands back gives the command. -/
theorem decodeOfEncodeIsIdentity : Obligations.DecodeOfEncodeIsIdentity := fun i => by
  rw [decode_of_matchesRow (encode_matchesRow i), i.readFrom_encode]

/-- Settles O2: the decoder accepts what matches a row, and what it accepts it read from the word's own fields. -/
theorem decodeAcceptsExactlyTheTableRows : Obligations.DecodeAcceptsExactlyTheTableRows := by
  refine ⟨fun w i h => ?accepted, fun w j h => ⟨j.readFrom w, decode_of_matchesRow h, j.readFrom_row w⟩⟩
  case accepted =>
    obtain ⟨j, hrow, rfl⟩ := decode_ok h
    exact ⟨by rwa [j.readFrom_row], encode_readFrom hrow⟩

/-- Settles O3: each word of the spec is the encoder's word for its command. -/
theorem wordsFromTheSpecDecode : Obligations.WordsFromTheSpecDecode :=
  have decodes := decodeOfEncodeIsIdentity
  ⟨decodes .nop, decodes (.setBreak 176#20), decodes (.setMab 12#20), decodes (.setPeriod 25000#20), decodes (.setSlots 24#10),
    decodes (.setDir 1#4 1#1 1#2), decodes (.txdata 0#4 512#10), decodes (.getDmx 0#4), decodes (.getUps 2#4),
    decodes (.rdmSendraw 1#4 26#10), decodes (.rdmSend 1#4), decodes (.rdmRecv 1#4), decodes (.rdmRecvTo 1#4),
    decodes (.rdmRespondRaw 1#4 26#10), decodes (.rdmRespondDisc 1#4 24#10)⟩

end Sys2Proof
end

section
/-! The acceptance of a command word (30_encoding.md R115): what a write to CMD does in each answer of the decoder, and what a
command that is refused leaves. -/

namespace Sys2Proof.Machine

/-! ### A write to CMD -/

/-- A write to CMD while BUSY is 0 is `accept` on the state the bus has answered in (20_memory.md R83). -/
theorem step_command {s : State} {w : Word} {rest : List Event} (hi : s.inputs = .hostWrite 0#13 w :: rest)
    (hb : s.busy = false) : step s = accept w { s with inputs := rest, busErr := false } := by
  rw [step_cons hi]
  simp only [runEvent, hostWrite, hb]
  rfl

theorem accept_ok {w : Word} {i : Instr} (h : decode w = .ok i) (s : State) : accept w s = exec i (s.load w) := by
  simp only [accept, h]

theorem accept_error {w : Word} {r : Reject} (h : decode w = .error r) (s : State) :
    accept w s = .next (ended (rejectCode s.ports.length r) false 0#32 0#32 (s.load w)) := by
  simp only [accept, h, State.finish_eq_ended]

theorem load_eq_accepted (w : Word) (rest : List Event) (s : State) :
    State.load w { s with inputs := rest, busErr := false } = accepted w rest s := rfl

/-- Settles O4: the write is `accept`, which runs what the word decodes to. -/
theorem stepRunsTheDecodedCommand : Obligations.StepRunsTheDecodedCommand := fun s w i rest hi hb hd => by
  rw [step_command hi hb, accept_ok hd, load_eq_accepted]

/-- A word that is no command completes with its code on the loaded mailbox. -/
theorem step_rejected {s : State} {w : Word} {rest : List Event} {r : Reject} (hi : s.inputs = .hostWrite 0#13 w :: rest)
    (hb : s.busy = false) (hd : decode w = .error r) :
    step s = .next (ended (rejectCode s.ports.length r) false 0#32 0#32 (accepted w rest s)) := by
  rw [step_command hi hb, accept_error hd, load_eq_accepted]

/-! ### Words that are no command -/

/-- A word with a command's opcode that does not match its row is rejected, with the code of the first check of R115 it fails. -/
theorem decode_of_mismatch {w : Word} {i : Instr} (hop : opcodeField w = i.opcode)
    (hrow : w &&& i.row.mask ≠ i.row.pattern) (nports : Nat) : ∃ r, decode w = .error r ∧
      rejectCode nports r = if i.format ≠ .g ∧ nports ≤ (portField w).toNat then .port else .operand := by
  have hbad : ¬((i.format = .g → portField w = 0#4) ∧ i.immShape.reserved w = false) :=
    fun h => hrow ((matchesRow_iff w i).mpr ⟨hop, h⟩)
  rw [decode_of_opcode hop]
  by_cases hg : i.format = .g
  · rw [if_pos hg]
    by_cases hport : portField w = 0#4
    · have himm : i.immShape.reserved w = true := by simpa [hport] using hbad
      exact ⟨.globalImm, by simp [decodeG, hport, himm], by simp [rejectCode, hg]⟩
    · exact ⟨.globalPort, by simp [decodeG, hport], by simp [rejectCode, hg]⟩
  · have himm : i.immShape.reserved w = true := by simpa [hg] using hbad
    refine ⟨.portedImm (portField w), by simp [hg, decodeP, himm], ?_⟩
    simp only [rejectCode, ne_eq, hg, not_false_eq_true, true_and, ← Nat.not_lt, ite_not]

/-- Settles O5: both kinds of word are rejected by the decoder, and the code is the one R115's order gives. -/
theorem reservedEncodingsCompleteWithAnError : Obligations.ReservedEncodingsCompleteWithAnError := by
  refine fun s w rest hi hb => ⟨?reserved, fun i hop hrow => ?mustBeZero⟩
  case reserved =>
    rintro op rfl hop
    exact step_rejected hi hb (decode_reservedOpcode hop)
  case mustBeZero =>
    obtain ⟨r, hd, hcode⟩ := decode_of_mismatch hop hrow s.ports.length
    rw [step_rejected hi hb hd, hcode]
    rfl

/-! ### Commands that are refused -/

theorem withPort_absent {port : BitVec 4} {s : State} (h : s.ports.length ≤ port.toNat) (k : Nat → Port → State) :
    s.withPort port k = ended .port false 0#32 0#32 s := by
  simp only [State.withPort, List.getElem?_eq_none h, State.finish_eq_ended]

/-- A command with a port operand runs on the port its word names, or not at all. -/
theorem exec_withPort {i : Instr} (hf : i.format ≠ .g) (s : State) : ∃ k, exec i s = .next (s.withPort i.portBits k) := by
  cases i
  case nop | setBreak | setMab | setPeriod | setSlots => exact absurd rfl hf
  all_goals exact ⟨_, rfl⟩

/-- Settles O6: no port, so the command's own rule is never reached. -/
theorem absentPortCompletesWithPortError : Obligations.AbsentPortCompletesWithPortError := fun i s hf hp => by
  obtain ⟨k, hk⟩ := exec_withPort hf s
  rw [hk, withPort_absent hp]

/-- A command that is not refused leaves ERR as it was loaded: it ends with no error, or it holds. -/
theorem err_of_commandEffect {i : Instr} {s t : State} (h : CommandEffect i s t) (hs : s.err = .none) :
    t.err = .none ∨ t = ended t.err false 0#32 0#32 s := by
  cases h with
  | ended e => exact .inr rfl
  | draining | raw | waiting => exact .inl hs
  | configured | enqueued | enabled | turned | counted | fetched | delivered | timedOut => exact .inl rfl

/-- Settles O7: of the effects a command can have, only the bare end of a command carries an error code. -/
theorem refusedCommandChangesOnlyTheMailbox : Obligations.RefusedCommandChangesOnlyTheMailbox :=
  fun _ _ _ hs h herr => (err_of_commandEffect (exec_cases h) hs).resolve_left herr

end Sys2Proof.Machine
end

section
/-! The timing scheduler (40_timing_scheduler.md): the timing commands (R146 to R150), what the scheduler tick does in each state
(R141 to R143), and when it runs over a tick of the clock (R140). -/

namespace Sys2Proof.Machine

/-! ### The timing commands -/

/-- Settles O9: the rule of NOP is the completion. -/
theorem nopOnlyCompletes : Obligations.NopOnlyCompletes := fun _ => rfl

/-- A time raised to its minimum fits the register it is stored in. -/
theorem toNat_raised (us : BitVec 20) {least : Nat} (h : least < 2 ^ 20) :
    (BitVec.ofNat 20 (max us.toNat least)).toNat = max us.toNat least :=
  Nat.mod_eq_of_lt (Nat.max_lt.mpr ⟨us.isLt, h⟩)

/-- The end of every timing command that is not refused. -/
theorem finish_recomputePeriod (s : State) :
    s.recomputePeriod.finish .none = ended .none false 0#32 0#32 { s with period := s.periodFor s.maxlen } := by
  rw [recomputePeriod_eq, State.finish_eq_ended]

/-- Settles O10: each setter stores its time and recomputes the period, which reads the time as it was stored. -/
theorem timingSettersStoreAndRecomputeThePeriod : Obligations.TimingSettersStoreAndRecomputeThePeriod := by
  refine fun us s => ⟨s.maxlen, isMaxlen_maxlen s, ?setBreak, ?setMab, ?setPeriod⟩
  case setBreak =>
    simp only [exec, execSetBreak, finish_recomputePeriod, State.periodFor, toNat_raised us (by decide : 92 < 2 ^ 20)]
    rfl
  case setMab =>
    simp only [exec, execSetMab, finish_recomputePeriod, State.periodFor, toNat_raised us (by decide : 12 < 2 ^ 20)]
    rfl
  case setPeriod => simp only [exec, execSetPeriod, finish_recomputePeriod]; rfl

/-- Settles O11, by the check of the operand. -/
theorem setSlotsStoresLegalCountOrRefuses : Obligations.SetSlotsStoresLegalCountOrRefuses := by
  refine fun n s => ⟨fun hlegal => ⟨s.maxlen, isMaxlen_maxlen s, ?stored⟩, fun hillegal => ?refused⟩
  case stored =>
    simp only [exec, execSetSlots, (slotsOperandLegal_iff n).mpr hlegal, if_true, finish_recomputePeriod]
    rfl
  case refused =>
    have hn : ¬slotsOperandLegal n = true := by rw [slotsOperandLegal_iff]; omega
    simp only [exec, execSetSlots, if_neg hn, State.finish_eq_ended]

/-! ### The scheduler tick -/

theorem schedTick_of_idle_interFrame_data {s : State}
    (h : s.schedState = .idle ∨ s.schedState = .interFrame ∨ s.schedState = .data) : s.schedTick = s.enterBreak := by
  rcases h with h | h | h <;> simp only [State.schedTick, h]

theorem schedTick_of_brk {s : State} (h : s.schedState = .brk) : s.schedTick = s.enterMab := by
  simp only [State.schedTick, h]

theorem schedTick_of_mab {s : State} (h : s.schedState = .mab) : s.schedTick = s.enterInterFrame := by
  simp only [State.schedTick, h]

theorem State.getElem?_eachPort {s : State} {p : Nat} {q : Port} (h : s.ports[p]? = some q) (f : Port → Port) :
    (s.eachPort f).ports[p]? = some (f q) := by
  rw [State.eachPort_ports, List.getElem?_map, h, Option.map_some]

theorem Port.txActive_iff (q : Port) : q.txActive = true ↔ q.dir = .output ∧ q.enableData = true := by
  simp [Port.txActive]

/-- One port over the tick that enters BREAK: latched, staged, and under the break if it transmits (R141). -/
def Port.enterBreak (t : Micros) (q : Port) : Port := q.enterCycle.ifTxset (Port.breakOn t)

theorem Port.enterBreak_eq (t : Micros) (q : Port) : q.enterBreak t =
    if q.dir = .output ∧ q.enableData = true then
      { q with
        txset := true
        txRd := q.txWr
        stgValid := if q.txWr ≠ q.txRd then true else q.stgValid
        stgSlot := if q.txWr ≠ q.txRd then q.txWr else q.stgSlot
        stgLen := if q.txWr ≠ q.txRd then (q.txBuf.get q.txWr).len else q.stgLen
        brk := true
        wire := q.wire ++ [.brkOn t] }
    else { q with txset := false } := by
  simp only [Port.enterBreak, Port.enterCycle, ← Port.txActive_iff]
  by_cases ha : q.txActive = true
  · by_cases hw : q.txWr = q.txRd <;> simp [ha, hw, Port.ifTxset, Port.breakOn_eq]
  · simp [ha, Port.ifTxset]

/-- The break condition is no part of what the period is computed from, so the staged ports give the same `maxlen`. -/
theorem maxlen_enterBreak (s : State) :
    (s.eachPort Port.enterCycle).maxlen = (s.eachPort (Port.enterBreak s.micros)).maxlen := by
  refine (maxlen_of_pendingSlots ?_).symm
  simp only [State.eachPort_ports, List.map_map]
  exact List.map_congr_left fun q _ =>
    (q.enterCycle.ifTxset_keepsLegal fun r => r.breakOn_keepsLegal s.micros).pending

theorem enterBreak_eq (s : State) : s.enterBreak =
    { s with
      schedTimer := s.breakTime.zeroExtend 32
      schedState := .brk
      ports := (s.eachPort (Port.enterBreak s.micros)).ports
      period := s.periodFor (s.eachPort (Port.enterBreak s.micros)).maxlen } := by
  rw [← maxlen_enterBreak]
  simp only [State.enterBreak, recomputePeriod_eq, State.eachPort, List.map_map]
  rfl

/-- Settles O12: the tick runs one function on every port, and recomputes the period over the ports that leaves. -/
theorem schedulerEntersBreak : Obligations.SchedulerEntersBreak := fun s hs =>
  ⟨_, _, (schedTick_of_idle_interFrame_data hs).trans (enterBreak_eq s), isMaxlen_maxlen _, List.length_map _,
    fun _ q hq => Port.enterBreak_eq s.micros q ▸ State.getElem?_eachPort hq _⟩

/-- Settles O13: the tick ends the break of every port of `txset`. -/
theorem schedulerLeavesBreak : Obligations.SchedulerLeavesBreak := fun _ hs =>
  ⟨_, schedTick_of_brk hs, List.length_map _, fun _ _ hq => State.getElem?_eachPort hq _⟩

/-- The rest of the period after the break and the mark, when the period holds them. -/
theorem interFrameTimer_eq {s : State} (h : s.breakTime.toNat + s.mabTime.toNat ≤ s.period.toNat) :
    s.period - s.breakTime.zeroExtend 32 - s.mabTime.zeroExtend 32 =
      BitVec.ofNat 32 (s.period.toNat - s.breakTime.toNat - s.mabTime.toNat) := by
  bv_omega

/-- One port over the tick that ends MARK_AFTER_BREAK (R143). -/
def Port.startStaged : Port → Port := Port.ifTxset fun q => if q.stgValid then q.dmaStart else q

theorem Port.startStaged_eq (q : Port) : q.startStaged =
    if q.txset = true ∧ q.stgValid = true then
      { q with dmaSlot := q.stgSlot, dmaLen := q.stgLen, dmaPos := 0#10, dmaBusy := true }
    else q := by
  rw [Port.startStaged, Port.ifTxset, ite_and]
  rfl

theorem enterInterFrame_eq {s : State} (h : s.breakTime.toNat + s.mabTime.toNat ≤ s.period.toNat) : s.enterInterFrame =
    { s with
      schedTimer := BitVec.ofNat 32 (s.period.toNat - s.breakTime.toNat - s.mabTime.toNat)
      schedState := .interFrame
      ports := (s.eachPort Port.startStaged).ports } := by
  rw [← interFrameTimer_eq h]
  rfl

/-- Settles O14: the tick starts the DMA of every port of `txset` that has a staged frame. -/
theorem schedulerStartsData : Obligations.SchedulerStartsData := fun _ hs hperiod =>
  ⟨_, (schedTick_of_mab hs).trans (enterInterFrame_eq hperiod), List.length_map _,
    fun _ q hq => q.startStaged_eq ▸ State.getElem?_eachPort hq _⟩

/-! ### The scheduler over a tick of the clock -/

/-- The state of the scheduler and the two times it reloads its countdown with. -/
def State.schedule (s : State) := (s.schedState, s.schedTimer, s.breakTime, s.mabTime)

theorem statsCountdown_schedule (s : State) : s.statsCountdown.schedule = s.schedule := by
  unfold State.statsCountdown
  dsimp only
  split_ifs <;> rfl

theorem beginRaw_schedule (k : RawSend) (p : Nat) (q : Port) (s : State) : (s.beginRaw k p q).schedule = s.schedule := by
  cases k <;>
    simp [State.schedule, State.beginRaw, State.prepareRaw, State.prepareMessage, State.startBreak, State.firstByte]

theorem endRaw_schedule (k : RawSend) (p : Nat) (s : State) : (s.endRaw k p).schedule = s.schedule := by
  cases k <;> simp [State.schedule, State.endRaw]

theorem commandStep_schedule (s : State) : s.commandStep.schedule = s.schedule := by
  generalize hu : s.commandStep = u
  cases hu ▸ commandStep_cases s with
  | broke q k hk hq hph => exact beginRaw_schedule k _ q s
  | responded q hq hph => exact beginRaw_schedule .respondDisc _ q s
  | drained q k hq hph he => exact endRaw_schedule k _ s
  | _ => rfl

/-- Of the substeps of a tick, only T5 writes the scheduler, on a state that holds the schedule the tick began with. -/
theorem tick_schedule (s : State) : ∃ u : State, u.schedule = s.schedule ∧ s.tick.schedule = u.schedCountdown.schedule := by
  obtain ⟨t1, t2, t3, t4, t5, t6, t7, rfl, rfl, rfl, h4, rfl, rfl, h7, ht⟩ := tick_substeps s
  refine ⟨t4, h4 ▸ statsCountdown_schedule _, ?_⟩
  rw [ht]
  exact h7 ▸ commandStep_schedule _

theorem schedCountdown_of_one {s : State} (h : s.schedTimer = 1#32) : s.schedCountdown = s.schedTick := by
  rw [schedCountdown_eq, if_pos h, schedTick_schedTimer]

theorem schedCountdown_of_two_le {s : State} (h : 2 ≤ s.schedTimer.toNat) :
    s.schedCountdown = { s with schedTimer := s.schedTimer - 1#32 } := by
  rw [schedCountdown_eq, if_neg]
  bv_omega

/-- Settles O15: the countdown of T5, above its last microsecond and at it. -/
theorem schedulerMovesOnlyWhenTheCountdownExpires : Obligations.SchedulerMovesOnlyWhenTheCountdownExpires := by
  intro s t rest hi hstep
  rw [step_cons hi] at hstep
  obtain rfl := Host.Outcome.next.inj hstep
  obtain ⟨u, hu, ht⟩ := tick_schedule { s with inputs := rest }
  simp only [State.schedule, Prod.mk.injEq] at hu ht
  obtain ⟨hstate, htimer, hbreak, hmab⟩ := hu
  obtain ⟨hstate', htimer', -, -⟩ := ht
  rw [hstate', htimer', ← hstate, ← htimer, ← hbreak, ← hmab]
  refine ⟨fun h2 => ?counts, fun h1 => ?expires⟩
  case counts => rw [schedCountdown_of_two_le h2]; exact ⟨rfl, rfl⟩
  case expires =>
    rw [schedCountdown_of_one h1]
    refine ⟨fun hx => ?toBreak, fun hx => ?toMab, fun hx => ?toInterFrame⟩
    case toBreak =>
      rw [schedTick_of_idle_interFrame_data (hx.imp_right .inl), enterBreak_eq]
      exact ⟨rfl, BitVec.toNat_setWidth_of_le (by decide)⟩
    case toMab => rw [schedTick_of_brk hx]; exact ⟨rfl, BitVec.toNat_setWidth_of_le (by decide)⟩
    case toInterFrame => rw [schedTick_of_mab hx]; rfl

end Sys2Proof.Machine
end

section
/-! The receive machine event by event (41_receive_fsm.md R170 to R180, R192): the line events on a port that listens and on one
that does not, the close of a DMX frame, the idle timer and the statistics tick. -/

namespace Sys2Proof.Machine

/-! ### A line event is one function on its port -/

/-- The step that is a line event `e` of port `p`, where `f` is what the event does to its port. -/
theorem step_lineEvent {s : State} {p : Nat} {q : Port} {e : Event} {rest : List Event} {f : Micros → Port → Port}
    (hq : s.ports[p]? = some q) (hi : s.inputs = e :: rest) (he : ∀ u : State, runEvent e u = .next (u.updPort p (f u.micros))) :
    step s = .next { s.withPortSet p (f s.micros q) with inputs := rest } := by
  rw [step_cons hi, he]
  exact congrArg Host.Outcome.next (State.updPort_eq (s := { s with inputs := rest }) hq _)

theorem Port.rxActive_iff (q : Port) : q.rxActive = true ↔ q.dir = .input ∧ q.enableData = true := by
  simp [Port.rxActive]

theorem Port.lineError_of_rxActive {q : Port} (h : q.rxActive = true) :
    q.lineError = { q with rxState := .preBreak, rxQuietArmed := false } := if_pos h

theorem Port.lineMark_of_rxActive {q : Port} (h : q.rxActive = true) :
    q.lineMark = { q with rxState := if q.rxState = .preBreak then .brk else q.rxState } := by
  by_cases hpre : q.rxState = .preBreak
  · simp [Port.lineMark, h, hpre]
  · simp [Port.lineMark, hpre]

/-- The part of a character's effect that is common to all receive states (R173). -/
def Port.heard (q : Port) : Port := { q with rxQuiet := 0#32, rxQuietArmed := true }

theorem Port.lineChar_of_rxActive {q : Port} (h : q.rxActive = true) (t : Micros) (v : Byte) :
    q.lineChar t v = q.heard.charInState t v := if_pos h

theorem Port.lineEvents_of_closed {q : Port} (h : ¬q.rxActive = true) (t : Micros) (v : Byte) :
    q.lineError = q ∧ q.lineMark = q ∧ q.lineChar t v = q := by
  refine ⟨if_neg h, ?_, if_neg h⟩
  simp [Port.lineMark, h]

/-- Settles O22: each line event leaves the port as it is, and replacing a port by itself is no change. -/
theorem lineEventsOfAClosedPortAreDropped : Obligations.LineEventsOfAClosedPortAreDropped := by
  intro s p q v rest hq hclosed e he hi
  obtain ⟨herror, hmark, hchar⟩ := Port.lineEvents_of_closed (mt q.rxActive_iff.mp hclosed) s.micros v
  simp only [List.mem_cons, List.not_mem_nil, or_false] at he
  rcases he with rfl | rfl | rfl
  · rw [step_lineEvent (f := fun _ => Port.lineError) hq hi fun _ => rfl, herror, State.withPortSet_self hq]
  · rw [step_lineEvent (f := fun _ => Port.lineMark) hq hi fun _ => rfl, hmark, State.withPortSet_self hq]
  · rw [step_lineEvent (f := fun t => Port.lineChar t v) hq hi fun _ => rfl, hchar, State.withPortSet_self hq]

/-- Settles O23, by what the two events do on a port that is rx_active. -/
theorem lineErrorAndMarkLeadToBreak : Obligations.LineErrorAndMarkLeadToBreak := by
  intro s p q rest hq hdir henabled
  have hactive := q.rxActive_iff.mpr ⟨hdir, henabled⟩
  refine ⟨fun hi => ?error, fun hi => ?mark⟩
  case error =>
    rw [step_lineEvent (f := fun _ => Port.lineError) hq hi fun _ => rfl, Port.lineError_of_rxActive hactive]
  case mark =>
    rw [step_lineEvent (f := fun _ => Port.lineMark) hq hi fun _ => rfl, Port.lineMark_of_rxActive hactive]

/-! ### The first character after the break -/

/-- No receive state's own rule touches the quiet counter (R173). -/
theorem Port.charInState_quiet (t : Micros) (v : Byte) (q : Port) :
    (q.charInState t v).rxQuiet = q.rxQuiet ∧ (q.charInState t v).rxQuietArmed = q.rxQuietArmed := by
  unfold Port.charInState
  cases q.rxState with
  | brk => dsimp only [Port.charInBreak]; split_ifs <;> exact ⟨rfl, rfl⟩
  | dmxData => dsimp only [Port.charInDmxData]; split_ifs <;> exact ⟨rfl, rfl⟩
  | checksumLow => dsimp only [Port.charInChecksumLow]; split_ifs <;> exact ⟨rfl, rfl⟩
  | discPreamble => dsimp only [Port.charInDiscPreamble]; split_ifs <;> exact ⟨rfl, rfl⟩
  | discUid => dsimp only [Port.charInDiscUid]; split_ifs <;> exact ⟨rfl, rfl⟩
  | discChecksum => dsimp only [Port.charInDiscChecksum]; split_ifs <;> exact ⟨rfl, rfl⟩
  | _ => exact ⟨rfl, rfl⟩

theorem Port.charInState_of_waiting {q : Port} (h : q.rxState = .idle ∨ q.rxState = .preBreak) (t : Micros) (v : Byte) :
    q.charInState t v = q := by
  rcases h with h | h <;> simp only [Port.charInState, h]

theorem Port.charInState_of_brk {q : Port} (h : q.rxState = .brk) (t : Micros) (v : Byte) :
    q.charInState t v = q.charInBreak v := by
  simp only [Port.charInState, h]

/-- R174. -/
theorem Port.charInBreak_dmx (q : Port) : q.charInBreak 0x00#8 =
    { q.setDmxCur { q.dmxCur with data := q.dmxCur.data.write 0 0x00#8, slots := 0#10 } with rxState := .dmxData } := rfl

/-- R175. -/
theorem Port.charInBreak_rdm (q : Port) : q.charInBreak 0xCC#8 =
    { q.setRdmCur { data := q.rdmCur.data.write 0 0xCC#8, cksum := 0xCC#16, cursor := 1#9, discCnt := 0#4 } with
      rxState := .rdmData } := rfl

/-- R176. -/
theorem Port.charInBreak_disc {v : Byte} (hdmx : v ≠ 0x00#8) (hrdm : v ≠ 0xCC#8) (q : Port) : q.charInBreak v =
    { q.setRdmCur { data := q.rdmCur.data.write 0 v, cksum := 0#16, cursor := 1#9, discCnt := 0#4 } with
      rxState := if v = 0xAA#8 then .discUid else .discPreamble } := by
  rw [Port.charInBreak, if_neg hdmx, if_neg hrdm]

theorem Buffer.read_write_self (b : Buffer) (i : Nat) (v : Byte) : (b.write i v).read i = v := by
  rw [Buffer.read_write, if_pos rfl]

/-- Settles O24: the common part of the character, then the branch the character chooses. -/
theorem firstCharacterAfterBreakChoosesTheBranch : Obligations.FirstCharacterAfterBreakChoosesTheBranch := by
  intro s p q v rest hq hdir henabled hi
  have hchar := Port.lineChar_of_rxActive (q.rxActive_iff.mpr ⟨hdir, henabled⟩) s.micros v
  obtain ⟨hquiet, harmed⟩ := Port.charInState_quiet s.micros v q.heard
  refine ⟨q.heard.charInState s.micros v, ?step, hquiet, harmed, fun hwait => ?waiting, fun hbrk => ?dmx, fun hbrk => ?rdm,
    fun hbrk hdmx hrdm => ?disc⟩
  case step => rw [step_lineEvent (f := fun t => Port.lineChar t v) hq hi fun _ => rfl, hchar]
  case waiting => exact Port.charInState_of_waiting (q := q.heard) hwait s.micros v
  case dmx =>
    rintro rfl
    rw [Port.charInState_of_brk (q := q.heard) hbrk, Port.charInBreak_dmx]
    simp [Port.heard, Buffer.read_write_self]
  case rdm =>
    rintro rfl
    rw [Port.charInState_of_brk (q := q.heard) hbrk, Port.charInBreak_rdm]
    simp [Port.heard, Buffer.read_write_self]
  case disc =>
    rw [Port.charInState_of_brk (q := q.heard) hbrk, Port.charInBreak_disc hdmx hrdm]
    simp [Port.heard, Buffer.read_write_self]

/-! ### The close of a DMX frame, the idle timer and the statistics tick -/

theorem publish_eq {w : Nat} (head tail : BitVec w) :
    publish head tail = if head + 1#w = tail then head else head + 1#w := ite_not ..

/-- Settles O25: the record at the head is stamped, and the head moves by the policy of a full ring. -/
theorem closedFrameIsCountedAndPublishedUnlessTheRingIsFull :
    Obligations.ClosedFrameIsCountedAndPublishedUnlessTheRingIsFull := fun q =>
  ⟨_, by rw [Port.closeDmxFrame, publish_eq]; rfl, Bank.get_put_self .., fun _ hi => Bank.get_put_ne _ hi _⟩

theorem Port.idleTimer_of_stopped {q : Port} (h : ¬q.rxActive = true ∨ q.rxQuietArmed = false) : q.idleTimer = q := by
  rcases h with h | h <;> simp [Port.idleTimer, h]

theorem Port.idleTimer_of_armed {q : Port} (hactive : q.rxActive = true) (harmed : q.rxQuietArmed = true) : q.idleTimer =
    if q.rxQuiet = 175#32 then Port.idleTimeout { q with rxQuiet := 176#32, rxQuietArmed := false }
    else { q with rxQuiet := q.rxQuiet + 1#32 } := by
  by_cases hlast : q.rxQuiet = 175#32
  · simp [Port.idleTimer, hactive, harmed, hlast]
  · have hcounts : (q.rxQuiet + 1#32).toNat ≠ 176 := by bv_omega
    simp only [Port.idleTimer, hactive, harmed, Bool.and_self, if_true, if_neg hcounts, if_neg hlast]

/-- Settles O26: the timer counts an armed port, and at 175 it stops and runs the timeout. -/
theorem idleTimeoutClosesOnlyADmxFrame : Obligations.IdleTimeoutClosesOnlyADmxFrame := by
  refine fun q => ⟨fun hstopped => ?stopped, fun hdir henabled harmed => ⟨fun hcounts => ?counts, fun hlast => ?fires⟩⟩
  case stopped => exact Port.idleTimer_of_stopped (by rwa [Port.rxActive_iff])
  case counts => rw [Port.idleTimer_of_armed (q.rxActive_iff.mpr ⟨hdir, henabled⟩) harmed, if_neg hcounts]
  case fires => rw [Port.idleTimer_of_armed (q.rxActive_iff.mpr ⟨hdir, henabled⟩) harmed, if_pos hlast, Port.idleTimeout]

/-- Settles O27, by whether the countdown expires. -/
theorem statisticsTickLatchesTheWindow : Obligations.StatisticsTickLatchesTheWindow := by
  refine fun s => ⟨fun hcounts => ?counts, fun hlast => ⟨_, ?expires, List.length_map Port.latchUps, fun p q hq => ?latch⟩⟩
  case counts => exact if_neg (show s.statsTimer - 1#32 ≠ 0#32 by bv_omega)
  case expires => exact if_pos (show s.statsTimer - 1#32 = 0#32 by rw [hlast]; rfl)
  case latch => exact State.getElem?_eachPort hq _

/-! ### The getters -/

theorem Buffer.read_bytes_stored (b c : Buffer) (n i : Nat) :
    (b.store 0 (c.bytes 0 n)).read i = if i < n then c.read i else b.read i := by
  by_cases hi : i < n
  · rw [if_pos hi, Buffer.read_store_mem b (Nat.zero_le i) (by simpa using hi), Buffer.bytes_getElem]
    simp
  · rw [if_neg hi]
    exact Buffer.read_store_ne b (.inr (by simpa using hi))

theorem execGetDmx_empty {port : BitVec 4} {s : State} {q : Port} (hq : s.ports[port.toNat]? = some q)
    (h : q.dmxHead = q.dmxTail) : exec (.getDmx port) s = .next (ended .none false 0#32 0#32 s) := by
  simp only [exec, execGetDmx, State.withPort_some hq, if_pos h, State.finish_eq_ended]

theorem execGetDmx_record {port : BitVec 4} {s : State} {q : Port} (hq : s.ports[port.toNat]? = some q)
    (h : q.dmxHead ≠ q.dmxTail) : exec (.getDmx port) s = .next
      (ended .none true ((q.dmxRing.get q.dmxTail).slots.zeroExtend 32) (q.dmxRing.get q.dmxTail).updates
        { s.withPortSet port.toNat { q with dmxTail := q.dmxTail + 1#2 } with
          rbuf := s.rbuf.store 0 ((q.dmxRing.get q.dmxTail).data.bytes 0 ((q.dmxRing.get q.dmxTail).slots.toNat + 1)) }) := by
  simp only [exec, execGetDmx, State.withPort_some hq, if_neg h, State.updPort_eq (s := s.storeRbuf 0 _) hq]
  rfl

/-- Settles O34: the two cases of the command, and what a read of RBUF gives after the copy. -/
theorem getDmxPopsTheOldestRecord : Obligations.GetDmxPopsTheOldestRecord := by
  refine fun port s q hq => ⟨execGetDmx_empty hq, fun h => ⟨_, _, rfl, execGetDmx_record hq h, fun i => ?_⟩⟩
  rw [Buffer.read_bytes_stored]
  exact ite_congr (propext Nat.lt_succ_iff) (fun _ => rfl) fun _ => rfl

/-- Settles O35: the port's latched count is the result. -/
theorem getUpsReturnsTheWindowCount : Obligations.GetUpsReturnsTheWindowCount := by
  intro port s q hq
  simp only [exec, execGetUps, State.withPort_some hq, State.complete_eq_ended]

end Sys2Proof.Machine
end

section
/-! Whole DMX frames on the receive machine (41_receive_fsm.md R193, R194): what the port holds after each slot of a frame, from
the first character after the break to the close. -/

namespace Sys2Proof.Machine

/-! ### The bytes a buffer begins with -/

/-- The buffer begins with the bytes of the list. -/
def Buffer.Holds (b : Buffer) (bs : List Byte) : Prop := ∀ i v, bs[i]? = some v → b.read i = v

theorem Buffer.Holds.bytes_eq {b : Buffer} {bs : List Byte} (h : b.Holds bs) : b.bytes 0 bs.length = bs :=
  List.ext_getElem (Buffer.bytes_length ..) fun i _ hi => by
    rw [Buffer.bytes_getElem, Nat.zero_add]
    exact h i _ (List.getElem?_eq_getElem hi)

theorem Buffer.holds_write_zero (b : Buffer) (v : Byte) : (b.write 0 v).Holds [v] := by
  intro i w hi
  obtain ⟨rfl, rfl⟩ : i = 0 ∧ v = w := by simpa [List.getElem?_singleton] using hi
  exact b.read_write_self 0 v

/-- Writing the next byte. -/
theorem Buffer.Holds.write {b : Buffer} {bs : List Byte} (h : b.Holds bs) {n : Nat} (hn : n = bs.length) (v : Byte) :
    (b.write n v).Holds (bs ++ [v]) := by
  subst hn
  intro i w hi
  rcases Nat.lt_trichotomy i bs.length with hlt | rfl | hgt
  · rw [List.getElem?_append_left hlt] at hi
    rw [Buffer.read_write, if_neg hlt.ne]
    exact h i w hi
  · rw [List.getElem?_concat_length] at hi
    exact Option.some.inj hi ▸ b.read_write_self _ v
  · rw [List.getElem?_eq_none (by simpa using hgt)] at hi
    cases hi

/-! ### Characters in a row -/

/-- The port after the characters of a list, all received at one time. -/
def Port.feed (t : Micros) (vs : List Byte) (q : Port) : Port := vs.foldl (fun q v => q.lineChar t v) q

@[simp] theorem Port.feed_nil (t : Micros) (q : Port) : q.feed t [] = q := rfl

@[simp] theorem Port.feed_cons (t : Micros) (v : Byte) (vs : List Byte) (q : Port) :
    q.feed t (v :: vs) = (q.lineChar t v).feed t vs := rfl

theorem Port.feed_append (t : Micros) (vs ws : List Byte) (q : Port) : q.feed t (vs ++ ws) = (q.feed t vs).feed t ws :=
  List.foldl_append

theorem Port.lineChar_rxActive (t : Micros) (v : Byte) (q : Port) : (q.lineChar t v).rxActive = q.rxActive := by
  by_cases h : q.rxActive = true
  · rw [Port.lineChar_of_rxActive h]
    obtain ⟨-, hmode⟩ := Port.charInState_sides t v q.heard
    obtain ⟨hdir, henabled⟩ := Prod.mk.inj hmode
    simp only [Port.rxActive, hdir, henabled]
    rfl
  · rw [(Port.lineEvents_of_closed h t v).2.2]

/-- Break and mark on a port that listens. -/
theorem Port.break_then_mark {q : Port} (h : q.rxActive = true) :
    q.lineError.lineMark = { q with rxState := .brk, rxQuietArmed := false } := by
  rw [Port.lineError_of_rxActive h]
  exact Port.lineMark_of_rxActive (q := { q with rxState := .preBreak, rxQuietArmed := false }) h

/-- The character after break and mark. -/
theorem Port.first_lineChar {q : Port} (h : q.rxActive = true) (t : Micros) (v : Byte) :
    q.lineError.lineMark.lineChar t v = Port.charInBreak v { q.heard with rxState := .brk } := by
  rw [Port.break_then_mark h]
  exact (Port.lineChar_of_rxActive (q := { q with rxState := .brk, rxQuietArmed := false }) h t v).trans
    (Port.charInState_of_brk rfl t v)

/-! ### The frame being received -/

/-- The port `q` is receiving a DMX frame whose slots so far are `bs`, in a frame that found the port as `q₀`. -/
structure Port.FillsDmx (q₀ q : Port) (bs : List Byte) : Prop where
  active : q.rxActive = true
  rxState : q.rxState = .dmxData
  dmxHead : q.dmxHead = q₀.dmxHead
  dmxTail : q.dmxTail = q₀.dmxTail
  rxFrames : q.rxFrames = q₀.rxFrames
  slots : q.dmxCur.slots.toNat = bs.length
  data : q.dmxCur.data.Holds (0x00#8 :: bs)

/-- The frame with the slots `bs` has been closed, in a frame that found the port as `q₀` (R180). -/
structure Port.ClosedDmx (q₀ q : Port) (bs : List Byte) : Prop where
  active : q.rxActive = true
  rxState : q.rxState = .idle
  dmxHead : q.dmxHead = publish q₀.dmxHead q₀.dmxTail
  dmxTail : q.dmxTail = q₀.dmxTail
  rxFrames : q.rxFrames = q₀.rxFrames + 1#32
  slots : (q.dmxRing.get q₀.dmxHead).slots.toNat = bs.length
  updates : (q.dmxRing.get q₀.dmxHead).updates = q₀.rxFrames + 1#32
  data : (q.dmxRing.get q₀.dmxHead).data.Holds (0x00#8 :: bs)

/-- The start code opens an empty frame (R174). -/
theorem Port.fillsDmx_start {q : Port} (h : q.rxActive = true) (t : Micros) :
    q.FillsDmx (q.lineError.lineMark.lineChar t 0x00#8) [] := by
  rw [Port.first_lineChar h, Port.charInBreak_dmx]
  exact
    { active := h
      rxState := rfl
      dmxHead := rfl
      dmxTail := rfl
      rxFrames := rfl
      slots := by simp [Port.dmxCur, Port.heard]
      data := by simpa [Port.dmxCur, Port.heard] using Buffer.holds_write_zero _ _ }

/-- `D.data[1 + D.slots] <- v; D.slots <- D.slots + 1` (R177). -/
def Port.storeSlot (v : Byte) (q : Port) : Port :=
  q.setDmxCur
    { q.dmxCur with data := q.dmxCur.data.write (1 + q.dmxCur.slots.toNat) v, slots := q.dmxCur.slots + 1#10 }

theorem Port.charInDmxData_eq (v : Byte) (q : Port) : q.charInDmxData v =
    if (q.storeSlot v).dmxCur.slots.toNat = 512 then (q.storeSlot v).closeDmxFrame else q.storeSlot v := by
  simp [Port.charInDmxData, Port.storeSlot, Port.dmxCur]

theorem Port.FillsDmx.storeSlot {q₀ q : Port} {bs : List Byte} (h : q₀.FillsDmx q bs) (hroom : bs.length < 512) (v : Byte) :
    q₀.FillsDmx (q.storeSlot v) (bs ++ [v]) where
  active := h.active
  rxState := h.rxState
  dmxHead := h.dmxHead
  dmxTail := h.dmxTail
  rxFrames := h.rxFrames
  slots := by
    have hslots := h.slots
    rw [Port.storeSlot, Port.dmxCur, Port.setDmxCur_dmxRing, Port.setDmxCur_dmxHead, Bank.get_put_self, List.length_append,
      List.length_singleton]
    bv_omega
  data := by
    rw [Port.storeSlot, Port.dmxCur, Port.setDmxCur_dmxRing, Port.setDmxCur_dmxHead, Bank.get_put_self]
    exact h.data.write (by rw [h.slots, List.length_cons, Nat.add_comm]) v

theorem Port.FillsDmx.heard {q₀ q : Port} {bs : List Byte} (h : q₀.FillsDmx q bs) : q₀.FillsDmx q.heard bs := { h with }

theorem Port.FillsDmx.close {q₀ q : Port} {bs : List Byte} (h : q₀.FillsDmx q bs) : q₀.ClosedDmx q.closeDmxFrame bs := by
  have hentry : q.closeDmxFrame.dmxRing.get q₀.dmxHead = { q.dmxCur with updates := q.rxFrames + 1#32 } := by
    rw [← h.dmxHead]
    exact Bank.get_put_self ..
  exact
    { active := h.active
      rxState := rfl
      dmxHead := by rw [← h.dmxHead, ← h.dmxTail]; rfl
      dmxTail := h.dmxTail
      rxFrames := by rw [← h.rxFrames]; rfl
      slots := by rw [hentry]; exact h.slots
      updates := by rw [hentry, h.rxFrames]
      data := by rw [hentry]; exact h.data }

theorem Port.FillsDmx.lineChar_eq {q₀ q : Port} {bs : List Byte} (h : q₀.FillsDmx q bs) (t : Micros) (v : Byte) :
    q.lineChar t v = q.heard.charInDmxData v := by
  rw [Port.lineChar_of_rxActive h.active]
  simp only [Port.charInState, h.heard.rxState]

/-- A slot below the last (R177). -/
theorem Port.FillsDmx.slot {q₀ q : Port} {bs : List Byte} (h : q₀.FillsDmx q bs) (hroom : bs.length < 511) (t : Micros)
    (v : Byte) : q₀.FillsDmx (q.lineChar t v) (bs ++ [v]) := by
  have hstored := h.heard.storeSlot (by omega) v
  rw [h.lineChar_eq, Port.charInDmxData_eq, if_neg]
  · exact hstored
  · rw [hstored.slots, List.length_append, List.length_singleton]
    omega

/-- The 512th slot closes the frame (R177). -/
theorem Port.FillsDmx.last_slot {q₀ q : Port} {bs : List Byte} (h : q₀.FillsDmx q bs) (hlast : bs.length = 511) (t : Micros)
    (v : Byte) : q₀.ClosedDmx (q.lineChar t v) (bs ++ [v]) := by
  have hstored := h.heard.storeSlot (by omega) v
  rw [h.lineChar_eq, Port.charInDmxData_eq, if_pos]
  · exact hstored.close
  · rw [hstored.slots, List.length_append, hlast]
    rfl

/-- Slots in a row, below the cap. -/
theorem Port.FillsDmx.feed {q₀ q : Port} {bs : List Byte} (h : q₀.FillsDmx q bs) (t : Micros) (vs : List Byte)
    (hroom : bs.length + vs.length < 512) : q₀.FillsDmx (q.feed t vs) (bs ++ vs) := by
  induction vs generalizing q bs with
  | nil => simpa using h
  | cons v vs ih =>
    rw [List.length_cons] at hroom
    have hslot := h.slot (by omega) t v
    simpa using ih hslot (by rw [List.length_append, List.length_singleton]; omega)

/-- A full frame is closed by its last slot. -/
theorem Port.closedDmx_of_full {q : Port} (h : q.rxActive = true) (t : Micros) {vs : List Byte} (hfull : vs.length = 512) :
    q.ClosedDmx ((q.lineError.lineMark.lineChar t 0x00#8).feed t vs) vs := by
  obtain ⟨ws, v, rfl⟩ : ∃ ws v, vs = ws ++ [v] := (List.eq_nil_or_concat' vs).resolve_left (by rintro rfl; cases hfull)
  rw [List.length_append, List.length_singleton] at hfull
  rw [Port.feed_append]
  have hfills := (Port.fillsDmx_start h t).feed t ws (by rw [List.length_nil]; omega)
  exact hfills.last_slot (by rw [List.nil_append]; omega) t v

/-! ### After the frame -/

/-- Characters after a close are discarded (R173). -/
theorem Port.ClosedDmx.feed {q₀ q : Port} {bs : List Byte} (h : q₀.ClosedDmx q bs) (t : Micros) (vs : List Byte) :
    q₀.ClosedDmx (q.feed t vs) bs := by
  induction vs generalizing q with
  | nil => exact h
  | cons v vs ih =>
    rw [Port.feed_cons]
    refine ih ?_
    rw [Port.lineChar_of_rxActive h.active, Port.charInState_of_waiting (q := q.heard) (.inl h.rxState)]
    exact { h with }

/-- The quiet time counts up from the last character. -/
theorem Port.idleTimer_counts {q : Port} (hactive : q.rxActive = true) (harmed : q.rxQuietArmed = true)
    (hquiet : q.rxQuiet = 0#32) {n : Nat} (hn : n ≤ 175) :
    Port.idleTimer^[n] q = { q with rxQuiet := BitVec.ofNat 32 n } := by
  induction n with
  | zero => simp [← hquiet]
  | succ n ih =>
    have hlast : BitVec.ofNat 32 n ≠ 175#32 := by bv_omega
    rw [Function.iterate_succ_apply', ih (by omega),
      Port.idleTimer_of_armed (q := { q with rxQuiet := BitVec.ofNat 32 n }) hactive harmed, if_neg hlast]
    simp [BitVec.ofNat_add]

/-- 176 quiet ticks after a character are the timeout (R178). -/
theorem Port.idleTimer_times_out {q : Port} (hactive : q.rxActive = true) (harmed : q.rxQuietArmed = true)
    (hquiet : q.rxQuiet = 0#32) :
    Port.idleTimer^[176] q = Port.idleTimeout { q with rxQuiet := 176#32, rxQuietArmed := false } := by
  rw [Function.iterate_succ_apply', Port.idleTimer_counts hactive harmed hquiet (Nat.le_refl 175)]
  exact Port.idleTimer_of_armed (q := { q with rxQuiet := 175#32 }) hactive harmed

/-- The last of a row of characters restarts the quiet time (R173). -/
theorem Port.feed_quiet {q : Port} (h : q.rxActive = true) (t : Micros) {vs : List Byte} (hvs : vs ≠ []) :
    (q.feed t vs).rxActive = true ∧ (q.feed t vs).rxQuietArmed = true ∧ (q.feed t vs).rxQuiet = 0#32 := by
  induction vs generalizing q with
  | nil => exact absurd rfl hvs
  | cons v vs ih =>
    have hactive : (q.lineChar t v).rxActive = true := (q.lineChar_rxActive t v).trans h
    rcases eq_or_ne vs [] with rfl | hne
    · obtain ⟨hquiet, harmed⟩ := Port.charInState_quiet t v q.heard
      rw [← Port.lineChar_of_rxActive h] at hquiet harmed
      exact ⟨hactive, harmed, hquiet⟩
    · exact ih hactive hne

theorem Port.FillsDmx.timeout {q₀ q : Port} {bs : List Byte} (h : q₀.FillsDmx q bs) (harmed : q.rxQuietArmed = true)
    (hquiet : q.rxQuiet = 0#32) : q₀.ClosedDmx (Port.idleTimer^[176] q) bs := by
  have hstopped : q₀.FillsDmx { q with rxQuiet := 176#32, rxQuietArmed := false } bs := { h with }
  rw [Port.idleTimer_times_out h.active harmed hquiet, Port.idleTimeout, if_pos hstopped.rxState]
  exact hstopped.close

/-- A frame of 1 to 512 slots is closed with its bytes: by its last slot, or by the quiet time after it. -/
theorem Port.closedDmx_of_frame {q : Port} (h : q.rxActive = true) (t : Micros) {vs : List Byte} (hne : vs ≠ [])
    (hle : vs.length ≤ 512) :
    q.ClosedDmx
      (if vs.length = 512 then (q.lineError.lineMark.lineChar t 0x00#8).feed t vs
        else Port.idleTimer^[176] ((q.lineError.lineMark.lineChar t 0x00#8).feed t vs)) vs := by
  have hstart := Port.fillsDmx_start h t
  split_ifs with hfull
  · exact Port.closedDmx_of_full h t hfull
  · obtain ⟨-, harmed, hquiet⟩ := Port.feed_quiet hstart.active t hne
    exact (hstart.feed t vs (by rw [List.length_nil]; omega)).timeout harmed hquiet

/-- GET_DMX that finds a closed frame at the tail returns its slots and copies its bytes. -/
theorem Port.ClosedDmx.getDmx {q₀ q : Port} {bs : List Byte} (h : q₀.ClosedDmx q bs) (hroom : q₀.dmxHead + 1#2 ≠ q₀.dmxTail)
    (htail : q₀.dmxHead = q₀.dmxTail) {s : State} {port : BitVec 4} (hq : s.ports[port.toNat]? = some q) :
    ∃ t, exec (.getDmx port) s = .next t ∧ t.err = .none ∧ t.valid = true ∧ t.result0.toNat = bs.length ∧
      t.rbuf.bytes 0 (bs.length + 1) = 0x00#8 :: bs := by
  have hentry : q.dmxTail = q₀.dmxHead := h.dmxTail.trans htail.symm
  have hpending : q.dmxHead ≠ q.dmxTail := by rwa [h.dmxHead, h.dmxTail, publish_eq, if_neg hroom]
  refine ⟨_, execGetDmx_record hq hpending, rfl, rfl, ?count, ?bytes⟩
  case count =>
    rw [hentry]
    exact (BitVec.toNat_setWidth_of_le (by decide)).trans h.slots
  case bytes =>
    have hcopied : ∀ b : Buffer, (b.store 0 ((q.dmxRing.get q₀.dmxHead).data.bytes 0 (bs.length + 1))).Holds (0x00#8 :: bs) := by
      intro b i v hi
      have hlt : i < bs.length + 1 := (List.getElem?_eq_some_iff.mp hi).1
      rw [Buffer.read_bytes_stored, if_pos hlt]
      exact h.data i v hi
    rw [hentry, h.slots]
    exact (hcopied s.rbuf).bytes_eq

/-- Settles O30: the frame fills the record at the head, its last slot or the quiet time closes it, and GET_DMX copies it. -/
theorem dmxFrameRoundTrip : Obligations.DmxFrameRoundTrip := by
  intro q now slots hdir henabled hpos hle hroom
  have hactive := q.rxActive_iff.mpr ⟨hdir, henabled⟩
  have hclosed := Port.closedDmx_of_frame hactive now (List.length_pos_iff.mp hpos) hle
  refine ⟨_, _, rfl, rfl, fun hlt => ?filling, ?_, hclosed.dmxTail, hclosed.rxFrames, hclosed.rxState, hclosed.slots,
    hclosed.updates, hclosed.data.bytes_eq, fun s port hq htail => hclosed.getDmx hroom htail hq⟩
  case filling =>
    have hfills := (Port.fillsDmx_start hactive now).feed now slots (by simpa using hlt)
    exact ⟨hfills.dmxHead, hfills.rxFrames⟩
  · exact hclosed.dmxHead.trans (by rw [publish_eq, if_neg hroom])

/-- Settles O31: the first 512 slots are a full frame; the rest and the quiet time find the machine in IDLE. -/
theorem overlongFrameIsClamped : Obligations.OverlongFrameIsClamped := by
  intro q now slots hdir henabled hlong hroom
  have hactive := q.rxActive_iff.mpr ⟨hdir, henabled⟩
  have hfirst : (slots.take 512).length = 512 := by rw [List.length_take]; omega
  have hclosed := (Port.closedDmx_of_full hactive now hfirst).feed now (slots.drop 512)
  rw [← Port.feed_append, List.take_append_drop] at hclosed
  have hne : slots ≠ [] := by rintro rfl; cases hlong
  obtain ⟨-, harmed, hquiet⟩ := Port.feed_quiet (Port.fillsDmx_start hactive now).active now hne
  have htimeout := Port.idleTimer_times_out hclosed.active harmed hquiet
  rw [Port.idleTimeout, if_neg (by simp [hclosed.rxState])] at htimeout
  refine ⟨_, rfl, ?_, hclosed.rxFrames, hclosed.rxState, hclosed.slots.trans hfirst, ?_, ?_, ?_, ?_⟩
  · exact hclosed.dmxHead.trans (by rw [publish_eq, if_neg hroom])
  · have hbytes := hclosed.data.bytes_eq
    rwa [List.length_cons, hfirst] at hbytes
  · exact (congrArg Port.rxState htimeout).trans hclosed.rxState
  · exact (congrArg Port.rxFrames htimeout).trans hclosed.rxFrames
  · exact congrArg Port.rxState (Port.lineError_of_rxActive hclosed.active)

end Sys2Proof.Machine
end

section
/-! Whole RDM packets on the receive machine (41_receive_fsm.md R175, R176, R181 to R188): what the port holds after each byte of
a message or of a discovery response, from the first character after the break to the completion. -/

namespace Sys2Proof.Machine

/-! ### The packet being received -/

/-- The port `q` is in the receive state `x` of a packet that found the port as `q₀`: the entry at the head holds the bytes `bs`
so far, with the running sum `c` and the discovery counter `d`. -/
structure Port.FillsRdm (q₀ q : Port) (x : RxState) (c : BitVec 16) (d : BitVec 4) (bs : List Byte) : Prop where
  active : q.rxActive = true
  rxState : q.rxState = x
  rdmHead : q.rdmHead = q₀.rdmHead
  rdmTail : q.rdmTail = q₀.rdmTail
  rxDoneTs : q.rxDoneTs = q₀.rxDoneTs
  cksum : q.rdmCur.cksum = c
  discCnt : q.rdmCur.discCnt = d
  cursor : q.rdmCur.cursor.toNat = bs.length
  data : q.rdmCur.data.Holds bs

/-- The packet with the bytes `bs` was completed at `t`, on a port that it found as `q₀` (R185). -/
structure Port.RdmDelivered (q₀ q : Port) (t : Micros) (bs : List Byte) : Prop where
  rxState : q.rxState = .idle
  rdmHead : q.rdmHead = publish q₀.rdmHead q₀.rdmTail
  rdmTail : q.rdmTail = q₀.rdmTail
  rxDoneTs : q.rxDoneTs = t
  cursor : (q.rdmRing.get q₀.rdmHead).cursor.toNat = bs.length
  data : (q.rdmRing.get q₀.rdmHead).data.Holds bs

/-- One byte of a packet: what every packet state does with a character, with the state, sum and counter it leaves. -/
def Port.storeRdm (v : Byte) (x : RxState) (c : BitVec 16) (d : BitVec 4) (q : Port) : Port :=
  { q.setRdmCur (RdmBuf.append v { q.rdmCur with cksum := c, discCnt := d }) with rxState := x }

theorem Port.storeRdm_rdmCur (v : Byte) (x : RxState) (c : BitVec 16) (d : BitVec 4) (q : Port) :
    (q.storeRdm v x c d).rdmCur = RdmBuf.append v { q.rdmCur with cksum := c, discCnt := d } := Bank.get_put_self ..

/-- A packet entry after one more byte. -/
theorem RdmBuf.append_holds {r : RdmBuf} {bs : List Byte} (hcursor : r.cursor.toNat = bs.length) (hdata : r.data.Holds bs)
    (hroom : bs.length < 511) (v : Byte) :
    (r.append v).cursor.toNat = (bs ++ [v]).length ∧ (r.append v).data.Holds (bs ++ [v]) := by
  refine ⟨?_, hdata.write hcursor v⟩
  rw [RdmBuf.append, List.length_append, List.length_singleton]
  bv_omega

section
variable {q₀ q : Port} {x : RxState} {c : BitVec 16} {d : BitVec 4} {bs : List Byte}

theorem Port.FillsRdm.heard (h : q₀.FillsRdm q x c d bs) : q₀.FillsRdm q.heard x c d bs := { h with }

theorem Port.FillsRdm.lineChar_eq (h : q₀.FillsRdm q x c d bs) (t : Micros) (v : Byte) :
    q.lineChar t v = q.heard.charInState t v := Port.lineChar_of_rxActive h.active t v

theorem Port.FillsRdm.store (h : q₀.FillsRdm q x c d bs) (hroom : bs.length < 511) (v : Byte) (x' : RxState)
    (c' : BitVec 16) (d' : BitVec 4) : q₀.FillsRdm (q.storeRdm v x' c' d') x' c' d' (bs ++ [v]) := by
  obtain ⟨hcursor, hdata⟩ := RdmBuf.append_holds h.cursor h.data hroom v
  exact
    { active := h.active
      rxState := rfl
      rdmHead := h.rdmHead
      rdmTail := h.rdmTail
      rxDoneTs := h.rxDoneTs
      cksum := congrArg RdmBuf.cksum (Port.storeRdm_rdmCur ..)
      discCnt := congrArg RdmBuf.discCnt (Port.storeRdm_rdmCur ..)
      cursor := by rw [Port.storeRdm_rdmCur]; exact hcursor
      data := by rw [Port.storeRdm_rdmCur]; exact hdata }

/-- R185. -/
theorem Port.FillsRdm.complete (h : q₀.FillsRdm q x c d bs) (t : Micros) : q₀.RdmDelivered (q.rdmComplete t) t bs where
  rxState := rfl
  rdmHead := by rw [← h.rdmHead, ← h.rdmTail]; rfl
  rdmTail := h.rdmTail
  rxDoneTs := rfl
  cursor := by rw [← h.rdmHead]; exact h.cursor
  data := by rw [← h.rdmHead]; exact h.data

end

/-- The first byte of a packet, whichever branch it chooses (R175, R176). -/
theorem Port.fillsRdm_of_first_byte {q : Port} (h : q.rxActive = true) (v : Byte) (x : RxState) (c : BitVec 16) :
    q.FillsRdm
      { q.heard.setRdmCur { data := q.heard.rdmCur.data.write 0 v, cksum := c, cursor := 1#9, discCnt := 0#4 } with
        rxState := x } x c 0#4 [v] := by
  constructor
  case active => exact h
  case data => simpa [Port.rdmCur, Port.heard] using Buffer.holds_write_zero _ _
  all_goals simp [Port.rdmCur, Port.heard]

/-! ### A message: its bytes -/

theorem checksum_concat (bs : List Byte) (v : Byte) : checksum (bs ++ [v]) = checksum bs + v.zeroExtend 16 := by
  simp only [checksum, List.map_append, List.sum_append, List.map_cons, List.map_nil, List.sum_singleton, BitVec.ofNat_add]
  rw [BitVec.ofNat_toNat]

/-- The receive state after the bytes `bs` of a message (R181): its declared length is reached, or it is given up. -/
def rdmDataNext (bs : List Byte) : RxState :=
  if bs[2]?.map BitVec.toNat = some bs.length then .checksumHigh else if bs.length = 255 then .idle else .rdmData

/-- A message whose third byte is below 3, or above the bytes it has, has not reached its declared length. -/
theorem rdmDataNext_of_not_reached {bs : List Byte} (h : ∀ ml, bs[2]? = some ml → ml.toNat ≤ 2 ∨ bs.length < ml.toNat) :
    rdmDataNext bs = if bs.length = 255 then .idle else .rdmData := by
  refine if_neg fun hreached => ?_
  obtain ⟨ml, hml, hlen⟩ := Option.map_eq_some_iff.mp hreached
  have hlong := (List.getElem?_eq_some_iff.mp hml).1
  have hml' := h ml hml
  omega

/-- The declared length is the third byte. -/
theorem declaredLength_iff {r : RdmBuf} {bs : List Byte} (hcursor : r.cursor.toNat = bs.length) (hdata : r.data.Holds bs) :
    (3 ≤ r.cursor.toNat ∧ r.cursor.toNat = (r.data.read 2).toNat) ↔ bs[2]?.map BitVec.toNat = some bs.length := by
  rw [hcursor]
  rcases Nat.lt_or_ge 2 bs.length with hlong | hshort
  · have hthird := List.getElem?_eq_getElem hlong
    rw [hthird, hdata 2 _ hthird]
    simp [Nat.succ_le_of_lt hlong, eq_comm]
  · exact iff_of_false (by omega) (by simp [List.getElem?_eq_none hshort])

theorem Port.charInRdmData_eq {v : Byte} {q : Port} (h : q.rxState = .rdmData) : q.charInRdmData v = q.storeRdm v
    (if 3 ≤ (RdmBuf.append v q.rdmCur).cursor.toNat ∧
        (RdmBuf.append v q.rdmCur).cursor.toNat = ((RdmBuf.append v q.rdmCur).data.read 2).toNat then .checksumHigh
      else if (RdmBuf.append v q.rdmCur).cursor.toNat = 255 then .idle else .rdmData)
    (q.rdmCur.cksum + v.zeroExtend 16) q.rdmCur.discCnt := by
  rw [← h]
  rfl

section
variable {q₀ q : Port} {c : BitVec 16} {d : BitVec 4} {bs : List Byte}

/-- R181. -/
theorem Port.FillsRdm.rdmData_char (h : q₀.FillsRdm q .rdmData c d bs) (hroom : bs.length < 511) (t : Micros) (v : Byte) :
    q₀.FillsRdm (q.lineChar t v) (rdmDataNext (bs ++ [v])) (c + v.zeroExtend 16) d (bs ++ [v]) := by
  obtain ⟨hcursor, hdata⟩ := RdmBuf.append_holds h.heard.cursor h.heard.data hroom v
  rw [h.lineChar_eq]
  simp only [Port.charInState, h.heard.rxState]
  rw [Port.charInRdmData_eq h.heard.rxState, h.heard.cksum, h.heard.discCnt]
  simp only [declaredLength_iff hcursor hdata]
  rw [hcursor]
  exact h.heard.store hroom v _ _ _

/-- R183. -/
theorem Port.FillsRdm.checksumHigh_char (h : q₀.FillsRdm q .checksumHigh c d bs) (hroom : bs.length < 511) (t : Micros)
    (v : Byte) : q₀.FillsRdm (q.lineChar t v) .checksumLow c d (bs ++ [v]) := by
  rw [h.lineChar_eq]
  simp only [Port.charInState, h.heard.rxState]
  rw [← h.heard.cksum, ← h.heard.discCnt]
  exact h.heard.store hroom v _ _ _

/-- The last byte of a message: it is stored, and then tested (R184). -/
theorem Port.FillsRdm.checksumLow_char (h : q₀.FillsRdm q .checksumLow c d bs) (hroom : bs.length < 511) (t : Micros)
    (v : Byte) : ∃ r : Port, q₀.FillsRdm r .idle c d (bs ++ [v]) ∧
      q.lineChar t v = if r.rdmCur.accepted then r.rdmComplete t else r := by
  refine ⟨_, h.heard.store hroom v .idle c d, ?_⟩
  rw [h.lineChar_eq]
  simp only [Port.charInState, h.heard.rxState]
  rw [Port.storeRdm_rdmCur, ← h.heard.cksum, ← h.heard.discCnt]
  rfl

end

/-- A message up to its declared length, or up to the byte that gives it up: no byte before the last ends the collecting. -/
theorem Port.fillsRdm_of_message {q : Port} (h : q.rxActive = true) (t : Micros) (msg : List Byte)
    (hfirst : msg[0]? = some 0xCC#8) (hle : msg.length ≤ 255)
    (hdeclared : ∀ ml, msg[2]? = some ml → ml.toNat ≤ 2 ∨ msg.length ≤ ml.toNat) :
    q.FillsRdm (q.lineError.lineMark.feed t msg) (rdmDataNext msg) (checksum msg) 0#4 msg := by
  induction msg using List.reverseRecOn with
  | nil => cases hfirst
  | append_singleton bs v ih =>
    rw [List.length_append, List.length_singleton] at hle hdeclared
    rcases eq_or_ne bs [] with rfl | hne
    · obtain rfl : v = 0xCC#8 := by simpa using hfirst
      rw [List.nil_append, Port.feed_cons, Port.feed_nil, Port.first_lineChar h, Port.charInBreak_rdm]
      exact Port.fillsRdm_of_first_byte h 0xCC#8 .rdmData 0xCC#16
    · have hbs : 0 < bs.length := List.length_pos_iff.mpr hne
      have hdeclared' : ∀ ml, bs[2]? = some ml → ml.toNat ≤ 2 ∨ bs.length < ml.toNat := fun ml hml =>
        hdeclared ml (by rwa [List.getElem?_append_left (List.getElem?_eq_some_iff.mp hml).1])
      have hcollecting := ih (by rwa [List.getElem?_append_left hbs] at hfirst) (by omega)
        fun ml hml => (hdeclared' ml hml).imp_right (by omega)
      rw [rdmDataNext_of_not_reached hdeclared', if_neg (by omega)] at hcollecting
      rw [Port.feed_append, checksum_concat]
      exact hcollecting.rdmData_char (by omega) t v

/-! ### A message: its checksum -/

/-- The two tests at the last byte of a message of the declared length (R184). -/
theorem accepted_iff {r : RdmBuf} {msg : List Byte} {hi lo : Byte} (hlo : 3 ≤ msg.length) (hhi : msg.length ≤ 255)
    (hdeclared : msg[2]? = some (BitVec.ofNat 8 msg.length)) (hcksum : r.cksum = checksum msg)
    (hdata : r.data.Holds (msg ++ [hi] ++ [lo])) : r.accepted = true ↔
      256 * hi.toNat + lo.toNat = (msg.map BitVec.toNat).sum % 65536 ∧ msg[1]? = some 0x01#8 := by
  have hmsg : ∀ i v, msg[i]? = some v → r.data.read i = v := fun i v hv =>
    hdata i v (by rwa [List.append_assoc, List.getElem?_append_left (List.getElem?_eq_some_iff.mp hv).1])
  have hlength : (r.data.read 2).toNat = msg.length := by
    rw [hmsg 2 _ hdeclared, BitVec.toNat_ofNat]
    omega
  have hhigh : r.data.read msg.length = hi := hdata _ _ (by simp)
  have hlow : r.data.read (msg.length + 1) = lo := hdata _ _ (by simp)
  have hsecond : msg[1]? = some (r.data.read 1) := by
    have h1 := List.getElem?_eq_getElem (show 1 < msg.length by omega)
    rw [hmsg 1 _ h1, h1]
  simp only [RdmBuf.accepted, hlength, hhigh, hlow, hcksum, checksum, BitVec.toNat_ofNat, Bool.and_eq_true, beq_iff_eq,
    hsecond, Option.some.injEq, eq_comm (a := 256 * hi.toNat + lo.toNat)]

/-- A message and its two checksum bytes: stored whole, and then completed exactly when it is accepted. -/
theorem Port.message_received {q : Port} (h : q.rxActive = true) (t : Micros) {msg : List Byte} (hi lo : Byte)
    (hlo : 3 ≤ msg.length) (hhi : msg.length ≤ 255) (hfirst : msg[0]? = some 0xCC#8)
    (hdeclared : msg[2]? = some (BitVec.ofNat 8 msg.length)) :
    ∃ r : Port, q.FillsRdm r .idle (checksum msg) 0#4 (msg ++ [hi] ++ [lo]) ∧
      q.lineError.lineMark.feed t (msg ++ [hi] ++ [lo]) = if r.rdmCur.accepted then r.rdmComplete t else r := by
  have hlength : (BitVec.ofNat 8 msg.length).toNat = msg.length := by
    rw [BitVec.toNat_ofNat]
    omega
  have hmessage := Port.fillsRdm_of_message h t msg hfirst hhi fun ml hml => by
    rw [← Option.some.inj (hdeclared.symm.trans hml), hlength]
    exact .inr le_rfl
  have hnext : rdmDataNext msg = .checksumHigh := if_pos (by rw [hdeclared, Option.map_some, hlength])
  rw [hnext] at hmessage
  have hhigh := hmessage.checksumHigh_char (by omega) t hi
  rw [Port.feed_append, Port.feed_append]
  exact hhigh.checksumLow_char (by rw [List.length_append, List.length_singleton]; omega) t lo

/-- Settles O32: the message is collected to its declared length and tested with its last byte; one that declares less than 3
bytes never reaches its length. -/
theorem rdmMessageIsDeliveredIffItsChecksumMatches : Obligations.RdmMessageIsDeliveredIffItsChecksumMatches := by
  refine ⟨fun q now msg hi lo hdir henabled hlo hhi hfirst hdeclared => ?tested,
    fun q now msg hdir henabled hhi hfirst hshort => ?givenUp⟩
  case tested =>
    obtain ⟨r, hr, hfed⟩ := Port.message_received (q.rxActive_iff.mpr ⟨hdir, henabled⟩) now hi lo hlo hhi hfirst hdeclared
    have haccepted := accepted_iff hlo hhi hdeclared hr.cksum hr.data
    have hdelivered := hr.complete now
    have hbytes := hdelivered.data.bytes_eq
    have hlength : (msg ++ [hi] ++ [lo]).length = msg.length + 2 := by simp
    rw [hlength, List.append_assoc] at hbytes
    rw [List.append_assoc] at hfed
    refine ⟨_, hfed.symm, ?idle, ?tail, fun hmatch => ?delivered, fun hmismatch => ?dropped⟩
    case idle => split_ifs; exacts [hdelivered.rxState, hr.rxState]
    case tail => split_ifs; exacts [hdelivered.rdmTail, hr.rdmTail]
    case delivered =>
      rw [if_pos (haccepted.mpr hmatch)]
      exact ⟨hdelivered.rdmHead.trans (publish_eq ..), hdelivered.rxDoneTs, hdelivered.cursor.trans hlength, hbytes⟩
    case dropped =>
      rw [if_neg (mt haccepted.mp hmismatch)]
      exact ⟨hr.rdmHead, hr.rxDoneTs⟩
  case givenUp =>
    have hmessage := Port.fillsRdm_of_message (q.rxActive_iff.mpr ⟨hdir, henabled⟩) now msg hfirst hhi
      fun ml hml => .inl (hshort ml hml)
    have hnext := rdmDataNext_of_not_reached fun ml hml => .inl (hshort ml hml)
    exact ⟨_, rfl, hmessage.rxState.trans hnext, hmessage.rdmHead, hmessage.rdmTail, hmessage.rxDoneTs⟩

/-! ### A discovery response -/

theorem Port.charInDiscPreamble_eq {v : Byte} {q : Port} (h : q.rxState = .discPreamble) (hcnt : q.rdmCur.discCnt = 0#4) :
    q.charInDiscPreamble v = q.storeRdm v
      (if v = 0xAA#8 ∨ (RdmBuf.append v q.rdmCur).cursor.toNat = 9 then .discUid else .discPreamble) q.rdmCur.cksum 0#4 := by
  rw [Port.charInDiscPreamble]
  dsimp only
  split_ifs
  · rfl
  · rw [← hcnt, ← h]
    rfl

theorem Port.charInDiscUid_eq (v : Byte) (q : Port) : q.charInDiscUid v =
    if (q.rdmCur.discCnt + 1#4).toNat = 12 then q.storeRdm v .discChecksum q.rdmCur.cksum 0#4
    else q.storeRdm v q.rxState q.rdmCur.cksum (q.rdmCur.discCnt + 1#4) := rfl

theorem Port.charInDiscChecksum_eq (t : Micros) (v : Byte) (q : Port) : q.charInDiscChecksum t v =
    if (q.rdmCur.discCnt + 1#4).toNat = 4 then
      (q.storeRdm v q.rxState q.rdmCur.cksum (q.rdmCur.discCnt + 1#4)).rdmComplete t
    else q.storeRdm v q.rxState q.rdmCur.cksum (q.rdmCur.discCnt + 1#4) := rfl

section
variable {q₀ q : Port} {c : BitVec 16} {d : BitVec 4} {bs : List Byte}

/-- R186. -/
theorem Port.FillsRdm.discPreamble_char (h : q₀.FillsRdm q .discPreamble c 0#4 bs) (hroom : bs.length < 511) (t : Micros)
    (v : Byte) :
    q₀.FillsRdm (q.lineChar t v) (if v = 0xAA#8 ∨ bs.length = 8 then .discUid else .discPreamble) c 0#4 (bs ++ [v]) := by
  obtain ⟨hcursor, -⟩ := RdmBuf.append_holds h.heard.cursor h.heard.data hroom v
  have hninth : (RdmBuf.append v q.heard.rdmCur).cursor.toNat = 9 ↔ bs.length = 8 := by
    rw [hcursor, List.length_append, List.length_singleton]
    omega
  rw [h.lineChar_eq]
  simp only [Port.charInState, h.heard.rxState]
  simp only [Port.charInDiscPreamble_eq h.heard.rxState h.heard.discCnt, hninth, h.heard.cksum]
  exact h.heard.store hroom v _ _ _

/-- R187. -/
theorem Port.FillsRdm.discUid_char (h : q₀.FillsRdm q .discUid c d bs) (hroom : bs.length < 511) (t : Micros) (v : Byte) :
    (d.toNat + 1 = 12 → q₀.FillsRdm (q.lineChar t v) .discChecksum c 0#4 (bs ++ [v])) ∧
    (d.toNat + 1 < 12 → q₀.FillsRdm (q.lineChar t v) .discUid c (d + 1#4) (bs ++ [v])) := by
  rw [h.lineChar_eq]
  simp only [Port.charInState, h.heard.rxState]
  rw [Port.charInDiscUid_eq, h.heard.rxState, h.heard.cksum, h.heard.discCnt]
  constructor <;> intro hd
  · rw [if_pos (by bv_omega)]
    exact h.heard.store hroom v _ _ _
  · rw [if_neg (by bv_omega)]
    exact h.heard.store hroom v _ _ _

/-- R188. -/
theorem Port.FillsRdm.discChecksum_char (h : q₀.FillsRdm q .discChecksum c d bs) (hroom : bs.length < 511) (t : Micros)
    (v : Byte) :
    (d.toNat + 1 = 4 → q₀.RdmDelivered (q.lineChar t v) t (bs ++ [v])) ∧
    (d.toNat + 1 < 4 → q₀.FillsRdm (q.lineChar t v) .discChecksum c (d + 1#4) (bs ++ [v])) := by
  rw [h.lineChar_eq]
  simp only [Port.charInState, h.heard.rxState]
  rw [Port.charInDiscChecksum_eq, h.heard.rxState, h.heard.cksum, h.heard.discCnt]
  constructor <;> intro hd
  · rw [if_pos (by bv_omega)]
    exact (h.heard.store hroom v _ _ _).complete t
  · rw [if_neg (by bv_omega)]
    exact h.heard.store hroom v _ _ _

/-- A state that counts characters, fed the characters it still counts: `done` is what the last of them leaves. -/
theorem Port.FillsRdm.feed_counted {x : RxState} {n : Nat} {t : Micros} {done : Port → List Byte → Prop}
    (hchar : ∀ {q d bs}, q₀.FillsRdm q x c d bs → bs.length < 511 → ∀ v,
      (d.toNat + 1 = n → done (q.lineChar t v) (bs ++ [v])) ∧
      (d.toNat + 1 < n → q₀.FillsRdm (q.lineChar t v) x c (d + 1#4) (bs ++ [v])))
    (h : q₀.FillsRdm q x c d bs) {vs : List Byte} (hcount : d.toNat + vs.length = n) (hstarted : d.toNat < n) (hn : n < 16)
    (hroom : bs.length + vs.length < 512) : done (q.feed t vs) (bs ++ vs) := by
  induction vs generalizing q d bs with
  | nil => exact absurd hcount hstarted.ne
  | cons v vs ih =>
    rw [List.length_cons] at hcount hroom
    obtain ⟨hlast, hmore⟩ := hchar h (by omega) v
    rcases Nat.lt_or_ge (d.toNat + 1) n with hlt | hge
    · rw [Port.feed_cons, List.append_cons]
      have hnext : (d + 1#4).toNat = d.toNat + 1 := by bv_omega
      exact ih (hmore hlt) (by omega) (by omega) (by rw [List.length_append, List.length_singleton]; omega)
    · obtain rfl : vs = [] := List.length_eq_zero_iff.mp (by omega)
      exact hlast (by omega)

end

/-- Preamble bytes and one more, which ends the preamble if it is the terminator or the ninth (R176, R186). -/
theorem Port.fillsRdm_of_preamble {q : Port} (h : q.rxActive = true) (t : Micros) (pre : List Byte) (last : Byte)
    (hle : pre.length ≤ 8) (hpre : ∀ v ∈ pre, v ≠ 0xAA#8) (hfirst : ∀ v ∈ (pre ++ [last]).head?, v ≠ 0x00#8 ∧ v ≠ 0xCC#8) :
    q.FillsRdm (q.lineError.lineMark.feed t (pre ++ [last]))
      (if last = 0xAA#8 ∨ pre.length = 8 then .discUid else .discPreamble) 0#16 0#4 (pre ++ [last]) := by
  induction pre using List.reverseRecOn generalizing last with
  | nil =>
    obtain ⟨hdmx, hrdm⟩ := hfirst last rfl
    rw [List.nil_append, Port.feed_cons, Port.feed_nil, Port.first_lineChar h, Port.charInBreak_disc hdmx hrdm]
    simp only [List.length_nil, OfNat.zero_ne_ofNat, or_false]
    exact Port.fillsRdm_of_first_byte h last (if last = 0xAA#8 then .discUid else .discPreamble) 0#16
  | append_singleton bs v ih =>
    rw [List.length_append, List.length_singleton] at hle
    have hpassed := ih v (by omega) (fun w hw => hpre w (List.mem_append_left _ hw))
      (by rwa [List.head?_append_of_ne_nil _ (by simp)] at hfirst)
    have hopen : ¬(v = 0xAA#8 ∨ bs.length = 8) := by
      rintro (hv | hlen)
      · exact hpre v (by simp) hv
      · omega
    rw [if_neg hopen] at hpassed
    rw [Port.feed_append]
    exact hpassed.discPreamble_char (by rw [List.length_append, List.length_singleton]; omega) t last

/-- Settles O33: the preamble and what ends it, then the identifier and the four bytes after it. -/
theorem discoveryResponseIsDelivered : Obligations.DiscoveryResponseIsDelivered := by
  intro q now pre body last hdir henabled hend hpre hfirst hbody
  have hle : pre.length ≤ 8 := hend.elim (fun h => h.1.trans (by decide)) le_of_eq
  have hends : last = 0xAA#8 ∨ pre.length = 8 := hend.imp_left And.right
  have hfirst' : ∀ v ∈ (pre ++ [last]).head?, v ≠ 0x00#8 ∧ v ≠ 0xCC#8 := by
    rcases eq_or_ne pre [] with rfl | hne
    · obtain rfl : last = 0xAA#8 := hends.resolve_right (by simp)
      decide
    · rwa [List.head?_append_of_ne_nil _ hne]
  have hpassed := Port.fillsRdm_of_preamble (q.rxActive_iff.mpr ⟨hdir, henabled⟩) now pre last hle hpre hfirst'
  rw [if_pos hends] at hpassed
  have huid : (body.take 12).length = 12 := by rw [List.length_take, hbody]; rfl
  have hrest : (body.drop 12).length = 4 := by rw [List.length_drop, hbody]
  have hlength : (pre ++ [last]).length = pre.length + 1 := by simp
  have hidentified : q.FillsRdm _ .discChecksum _ _ _ :=
    hpassed.feed_counted (done := fun r bs => q.FillsRdm r .discChecksum 0#16 0#4 bs)
      (fun h hroom v => h.discUid_char hroom now v) (by rw [huid]; rfl) (by decide) (by decide) (by omega)
  have hdelivered := hidentified.feed_counted (done := fun r bs => q.RdmDelivered r now bs)
    (fun h hroom v => h.discChecksum_char hroom now v) (by rw [hrest]; rfl) (by decide) (by decide)
    (by rw [List.length_append]; omega)
  rw [← Port.feed_append, List.append_assoc, List.take_append_drop] at hdelivered
  have hpacket : (pre ++ [last] ++ body).length = pre.length + 17 := by rw [List.length_append, hlength, hbody]
  have hbytes := hdelivered.data.bytes_eq
  rw [hpacket, List.append_assoc] at hbytes
  exact ⟨_, _, rfl, rfl, hpassed.rxState, hpassed.rdmHead, hdelivered.rxState, hdelivered.rdmTail, hdelivered.rxDoneTs,
    hdelivered.rdmHead.trans (publish_eq ..), hdelivered.cursor.trans hpacket, hbytes⟩

end Sys2Proof.Machine
end

section
/-! The transmit pipeline (42_transmit_pipeline.md): the frame TXDATA puts in the free slot (R220), one DMA transfer (R225), and
the end and the start of a character (R227, R228). -/

namespace Sys2Proof.Machine

/-! ### TXDATA -/

/-- The slot other than the one the write index names is another slot. -/
theorem txSlot_ne_other : ∀ i : BitVec Config.txSlotBits, i ≠ i ^^^ 1#1 := by decide

/-- A transmit slot with a frame of `n` bytes of `src` written into it (R220 (a)). -/
def TxSlot.fill (n : Nat) (src : Buffer) (slot : TxSlot) : TxSlot :=
  { data := slot.data.store 0 (Config.dmxSc :: src.bytes 0 n), len := BitVec.ofNat 10 (n + 1) }

theorem Port.enqueueFrame_txBuf (n : Nat) (src : Buffer) (q : Port) : (q.enqueueFrame n src).txBuf =
    q.txBuf.put (q.txWr ^^^ 1#1) ((q.txBuf.get (q.txWr ^^^ 1#1)).fill n src) := rfl

theorem TxSlot.fill_len (slot : TxSlot) {n : Nat} (hn : n ≤ 512) (src : Buffer) : (slot.fill n src).len.toNat = n + 1 :=
  Nat.mod_eq_of_lt (by omega)

theorem TxSlot.fill_startCode (slot : TxSlot) (n : Nat) (src : Buffer) : (slot.fill n src).data.read 0 = 0x00#8 :=
  Buffer.read_store_mem _ (le_refl 0) (by simp)

theorem TxSlot.fill_byte (slot : TxSlot) {n i : Nat} (hi : i < n) (src : Buffer) :
    (slot.fill n src).data.read (1 + i) = src.read i := by
  rw [TxSlot.fill, Buffer.read_store_mem _ (Nat.zero_le _) (by simp; omega)]
  simp [Nat.add_comm 1 i, Buffer.bytes_getElem]

theorem TxSlot.fill_beyond (slot : TxSlot) {n i : Nat} (hi : n < i) (src : Buffer) :
    (slot.fill n src).data.read i = slot.data.read i :=
  Buffer.read_store_ne _ (.inr (by simp; omega))

/-- A byte of a port's transmit slots outside the frame that is written. -/
theorem Port.enqueueFrame_frame (src : Buffer) (q : Port) {k : BitVec Config.txSlotBits} {n i : Nat}
    (h : ¬(k = q.txWr ^^^ 1#1 ∧ i ≤ n)) :
    ((q.enqueueFrame n src).txBuf.get k).data.read i = (q.txBuf.get k).data.read i := by
  rw [Port.enqueueFrame_txBuf, Bank.get_put]
  split
  · next hk => subst hk; exact TxSlot.fill_beyond _ (by simpa using h) src
  · rfl

theorem State.withPortSet_resets (p : Nat) (q : Port) (s : State) : (s.withPortSet p q).resets = s.resets := rfl

/-- Replacing a port by one with the same rings changes a byte only where a transmit slot of that port reads otherwise. -/
theorem State.byteAt_withPortSet {s : State} {p : Nat} {q q' : Port} (hq : s.ports[p]? = some q)
    (hdmx : q'.dmxRing = q.dmxRing) (hrdm : q'.rdmRing = q.rdmRing) (id : BufId) (i : Nat)
    (htx : ∀ k, id = .txBuf p k → (q'.txBuf.get k).data.read i = (q.txBuf.get k).data.read i) :
    (s.withPortSet p q').byteAt id i = s.byteAt id i := by
  cases id with
  | pbuf | rbuf => rfl
  | txBuf r k | dmxRing r k | rdmRing r k =>
    rcases eq_or_ne r p with rfl | hr
    · simp [State.byteAt, State.getElem?_withPortSet hq, hq, hdmx, hrdm, htx]
    · simp [State.byteAt, State.getElem?_withPortSet hq, hr, State.withPortSet_resets]

theorem State.byteAt_enqueueFrame {s : State} {p : Nat} {q : Port} (hq : s.ports[p]? = some q) {n : Nat} (src : Buffer)
    {id : BufId} {i : Nat} (h : ¬(id = .txBuf p (q.txWr ^^^ 1#1) ∧ i ≤ n)) :
    (s.withPortSet p (q.enqueueFrame n src)).byteAt id i = s.byteAt id i :=
  State.byteAt_withPortSet (q' := q.enqueueFrame n src) hq rfl rfl id i fun _ hid =>
    Port.enqueueFrame_frame src q fun ⟨hslot, hle⟩ => h ⟨hslot ▸ hid, hle⟩

/-- Neither the end of a command nor the period is memory. -/
theorem State.byteAt_ended_period (e : ErrCode) (v : Bool) (r0 r1 period : Word) (s : State) (id : BufId) (i : Nat) :
    (ended e v r0 r1 { s with period := period }).byteAt id i = s.byteAt id i := by
  cases id <;> rfl

/-- TXDATA on a port that exists: the frame goes to the port, and the period is the one for the ports it leaves. -/
theorem exec_txdata {port : BitVec 4} (len : BitVec 10) {s : State} {q : Port} (hq : s.ports[port.toNat]? = some q) :
    exec (.txdata port len) s = .next (ended .none false 0#32 0#32
      { s.withPortSet port.toNat (q.enqueueFrame (min len.toNat s.slots.toNat) s.pbuf) with
        period := s.periodFor
          (s.withPortSet port.toNat (q.enqueueFrame (min len.toNat s.slots.toNat) s.pbuf)).maxlen }) := by
  simp only [exec, execTxdata, State.withPort_some hq, State.updPort_eq hq, finish_recomputePeriod]
  rfl

/-- Settles O18: what the filled slot reads, and that no other byte of the port or of the block is written. -/
theorem txdataWritesTheFreeSlotAndPublishesIt : Obligations.TxdataWritesTheFreeSlotAndPublishesIt := by
  intro port len s q hq hslots
  have hn : min len.toNat s.slots.toNat ≤ 512 := (min_le_right ..).trans hslots
  refine ⟨_, _, (q.enqueueFrame (min len.toNat s.slots.toNat) s.pbuf).txBuf, _, rfl, exec_txdata len hq, rfl,
    isMaxlen_maxlen _, ?_⟩
  rw [Port.enqueueFrame_txBuf, Bank.get_put_self]
  exact ⟨TxSlot.fill_len _ hn _, Bank.get_put_ne _ (txSlot_ne_other _) _, TxSlot.fill_startCode ..,
    fun i hi => TxSlot.fill_byte _ hi _,
    fun id k hk => (State.byteAt_ended_period ..).trans (State.byteAt_enqueueFrame hq s.pbuf hk)⟩

/-! ### The DMA engine -/

theorem Port.dmaTransfer_of_request {q : Port} (hbusy : q.dmaBusy = true) (hfree : q.thrFull = false) : q.dmaTransfer =
    { q with
      thr := (q.txBuf.get q.dmaSlot).data.read q.dmaPos.toNat
      thrFull := true
      dmaPos := q.dmaPos + 1#10
      dmaBusy := decide (q.dmaPos + 1#10 ≠ q.dmaLen) } := by
  simp [Port.dmaTransfer, hbusy, hfree]

theorem Port.dmaTransfer_of_no_request {q : Port} (h : q.dmaBusy = false ∨ q.thrFull = true) : q.dmaTransfer = q :=
  if_neg (by rcases h with h | h <;> simp [h])

/-- Settles O19: while the index is below the length it does not wrap, and the channel rests when it reaches the length. -/
theorem dmaTransferMovesOneByte : Obligations.DmaTransferMovesOneByte := by
  refine fun q => ⟨fun hbusy hfree hpos => ?_, Port.dmaTransfer_of_no_request⟩
  have hnext : q.dmaPos + 1#10 = BitVec.ofNat 10 (q.dmaPos.toNat + 1) := by bv_omega
  have hlast : q.dmaPos + 1#10 ≠ q.dmaLen ↔ q.dmaPos.toNat + 1 < q.dmaLen.toNat := by bv_omega
  rw [Port.dmaTransfer_of_request hbusy hfree, decide_eq_decide.mpr hlast, hnext]

/-! ### The transmitter -/

theorem Port.charEnd_of_busy {q : Port} (h : q.tsrBusy = true) :
    q.charEnd = { q with tsrRem := q.tsrRem - 1#6, tsrBusy := decide (q.tsrRem ≠ 1#6) } := by
  have hlast : q.tsrRem - 1#6 = 0#6 ↔ q.tsrRem = 1#6 := by bv_omega
  simp [Port.charEnd, h, hlast]

theorem Port.charEnd_of_rest {q : Port} (h : q.tsrBusy = false) : q.charEnd = q := by
  simp [Port.charEnd, h]

theorem Port.charStart_of_none {q : Port} (h : q.tsrBusy = true ∨ q.thrFull = false) (t : Micros) : q.charStart t = q := by
  rcases h with h | h <;> simp [Port.charStart, h]

theorem Port.charStart_of_waiting {q : Port} (hrest : q.tsrBusy = false) (hfull : q.thrFull = true) (t : Micros) :
    q.charStart t = { q with
      tsr := q.thr, thrFull := false, tsrBusy := true, tsrRem := 44#6, wire := q.wire ++ [.char t q.thr] } := by
  simp [Port.charStart, Port.emit, hrest, hfull]

/-- The transmitter while it counts a character down: busy until as many ticks have passed as remained. -/
theorem Port.charEnd_iterate {q : Port} (hbusy : q.tsrBusy = true) {n k : Nat} (hrem : q.tsrRem.toNat = n) (hn : 0 < n)
    (hk : k ≤ n) : Port.charEnd^[k] q =
      { q with tsrRem := q.tsrRem - BitVec.ofNat 6 k, tsrBusy := decide (k < n) } := by
  induction k with
  | zero => simp [hn, ← hbusy]
  | succ k ih =>
    have hnext : q.tsrRem - BitVec.ofNat 6 k - 1#6 = q.tsrRem - BitVec.ofNat 6 (k + 1) := by bv_omega
    have hlast : q.tsrRem - BitVec.ofNat 6 k ≠ 1#6 ↔ k + 1 < n := by bv_omega
    rw [Function.iterate_succ_apply', ih (Nat.le_of_succ_le hk), Port.charEnd_of_busy (decide_eq_true hk)]
    simp only [hnext, hlast]

/-- Settles O20: a character starts with 44 ticks remaining, and every character end takes one. -/
theorem characterOccupiesFortyFourTicks : Obligations.CharacterOccupiesFortyFourTicks := by
  refine fun q t => ⟨Port.charEnd_of_busy, Port.charEnd_of_rest, fun h => Port.charStart_of_none h t, fun hrest hfull => ?_⟩
  have hstart := Port.charStart_of_waiting hrest hfull t
  have hcount : ∀ k ≤ 44, (Port.charEnd^[k] (q.charStart t)).tsrBusy = decide (k < 44) := fun k hk => by
    rw [hstart, Port.charEnd_iterate rfl (n := 44) rfl (by decide) hk]
  exact ⟨hstart, fun k hk => (hcount k hk.le).trans (decide_eq_true hk), hcount 44 le_rfl⟩

end Sys2Proof.Machine
end

section
/-! The action of a phase of the command in progress on its port, for all statements about a phase; and the RDM receive commands
(43_rdm_primitives.md R257, R258), with the delivery of the packet at the tail said once for both and for the wait. -/

namespace Sys2Proof.Machine

/-! ### The action of a phase -/

/-- The action of phase `ph` on port `p`, in state `q`: the choice `State.commandStep` makes on a port that exists. -/
def State.phaseAction (ph : CmdPhase) (p : Nat) (q : Port) (s : State) : State :=
  match ph with
  | .none => s
  | .wait => s.phaseWait p q
  | .brk => s.phaseBreak p
  | .mab => s.phaseMab p
  | .data => s.phaseData p q
  | .drain => s.phaseDrain p q
  | .post => s.phasePost p
  | .dirA => s.phaseDirA p
  | .dirB => s.phaseDirB p q
  | .recvWait => s.phaseRecvWait p q

theorem commandStep_of_phase {s : State} {q : Port} {ph : CmdPhase} (hq : s.ports[s.cmdPort]? = some q)
    (hph : s.cmdPhase = ph) : s.commandStep = s.phaseAction ph s.cmdPort q := by
  subst hph
  simp only [State.commandStep, hq]
  rfl

/-- The time since `t` has reached `a`, in naturals (00_scope.md R10). -/
theorem le_elapsed_iff (a : Word) (micros t : Micros) : a ≤ elapsed micros t ↔ a.toNat ≤ (micros - t).toNat := BitVec.le_def

/-! ### Delivery -/

theorem deliver_eq {s : State} {p : Nat} {q : Port} (hq : s.ports[p]? = some q) : s.deliver p q =
    ended .none true ((q.rdmRing.get q.rdmTail).cursor.zeroExtend 32) 0#32
      { s.withPortSet p { q with rdmTail := q.rdmTail + 1#3 } with
        rbuf := s.rbuf.store 0 ((q.rdmRing.get q.rdmTail).data.bytes 0 (q.rdmRing.get q.rdmTail).cursor.toNat) } := by
  simp only [State.deliver, State.updPort_eq (s := s.storeRbuf 0 _) hq]
  rfl

/-- `t` is `s` after the delivery of the packet at the tail of port `p`, whose state was `q` (R257): what a statement says of it,
RBUF given by what its bytes read. -/
def State.Delivers (s : State) (p : Nat) (q : Port) (t : State) : Prop :=
  ∃ (r : RdmBuf) (rb : Buffer), r = q.rdmRing.get q.rdmTail ∧
    t = ended .none true (r.cursor.zeroExtend 32) 0#32
      { s.withPortSet p { q with rdmTail := q.rdmTail + 1#3 } with rbuf := rb } ∧
    ∀ i, rb.read i = if i < r.cursor.toNat then r.data.read i else s.rbuf.read i

theorem deliver_delivers {s : State} {p : Nat} {q : Port} (hq : s.ports[p]? = some q) : s.Delivers p q (s.deliver p q) :=
  ⟨_, _, rfl, deliver_eq hq, Buffer.read_bytes_stored _ _ _⟩

/-! ### RDM_RECV and RDM_RECV_TO -/

theorem exec_rdmRecv {port : BitVec 4} {s : State} {q : Port} (hq : s.ports[port.toNat]? = some q) :
    exec (.rdmRecv port) s = .next (if q.rdmHead = q.rdmTail then s.finish .none else s.deliver port.toNat q) :=
  congrArg Host.Outcome.next (State.withPort_some hq _)

/-- Settles O41: on a ring that holds a packet the command is its delivery. -/
theorem rdmRecvPopsTheOldestPacket : Obligations.RdmRecvPopsTheOldestPacket := by
  intro port s q hq
  rw [exec_rdmRecv hq]
  refine ⟨fun hempty => by rw [if_pos hempty, State.finish_eq_ended], fun hpacket => ?_⟩
  obtain ⟨r, rb, hr, ht, hread⟩ := deliver_delivers hq
  exact ⟨r, rb, hr, by rw [if_neg hpacket, ht], hread⟩

theorem exec_rdmRecvTo {port : BitVec 4} {s : State} {q : Port} (hq : s.ports[port.toNat]? = some q) :
    exec (.rdmRecvTo port) s = .next (
      if q.rdmHead ≠ q.rdmTail then State.deliver port.toNat q { s with cmdT0 := s.micros }
      else if s.arg = 0#32 then State.finish .none { s with cmdT0 := s.micros }
      else State.hold .recvWait { s with cmdT0 := s.micros }) :=
  congrArg Host.Outcome.next (State.withPort_some hq _)

/-- Settles O42: the accepting write and phase 9 each test for a packet first, and a packet is delivered as in RDM_RECV. -/
theorem rdmRecvToDeliversOrTimesOut : Obligations.RdmRecvToDeliversOrTimesOut := by
  refine ⟨fun port s q hq => ?accepting, fun s p q _ hp hq hph => ?waiting⟩
  case accepting =>
    rw [exec_rdmRecvTo hq]
    refine ⟨fun hpacket => ?_, fun hempty hzero => ?_, fun hempty hwait => ?_⟩
    · obtain ⟨r, rb, hr, ht, hread⟩ := deliver_delivers (s := { s with cmdT0 := s.micros }) hq
      exact ⟨r, rb, hr, by rw [if_pos hpacket, ht]; rfl, hread⟩
    · rw [if_neg (not_not.mpr hempty), if_pos hzero, State.finish_eq_ended]
    · rw [if_neg (not_not.mpr hempty), if_neg hwait]
      rfl
  case waiting =>
    subst hp
    rw [commandStep_of_phase hq hph, State.phaseAction, State.phaseRecvWait]
    refine ⟨fun hpacket => ?_, fun hempty => ?_⟩
    · rw [if_pos hpacket]
      exact deliver_delivers hq
    · rw [if_neg (not_not.mpr hempty)]
      exact if_congr (le_elapsed_iff ..) rfl rfl

end Sys2Proof.Machine
end

section
/-! The raw transmissions (43_rdm_primitives.md R250 to R256, R259, R260): the checks of the four transmitting commands, the phases
WAIT and DRAIN in which they differ, and the phases BREAK, MAB and DATA in which they do not. -/

namespace Sys2Proof.Machine

/-! ### The checks of an accepting write (R252) -/

theorem Port.not_rawSendReady_iff (q : Port) : (!q.rawSendReady) = true ↔ ¬(q.dir = .output ∧ q.enableData = false) := by
  simp [Port.rawSendReady, imp_iff_not_or]

/-- The checks of a send with a length operand, in their order, where `refused` is the port state it refuses. -/
theorem acceptRaw_eq (len : BitVec 10) {ready : Bool} {refused : Prop} [Decidable refused] (h : (!ready) = true ↔ refused)
    (s : State) : s.acceptRaw len ready =
      if len.toNat = 0 ∨ 512 < len.toNat then ended .length false 0#32 0#32 s
      else if refused then ended .portState false 0#32 0#32 s
      else { s with cmdLen := len, busy := true, cmdPhase := .wait } := by
  have hlen : (!lengthOperandLegal len) = true ↔ len.toNat = 0 ∨ 512 < len.toNat := by
    rw [Bool.not_eq_true', ← Bool.not_eq_true, lengthOperandLegal_iff]
    omega
  exact if_congr hlen rfl (if_congr h rfl rfl)

/-- RDM_SENDRAW and RDM_RESPOND_RAW make the same checks. -/
theorem withPort_acceptRaw {port : BitVec 4} {s : State} {q : Port} (hq : s.ports[port.toNat]? = some q) (len : BitVec 10) :
    (s.withPort port fun _ q => s.acceptRaw len q.rawSendReady) =
      if len.toNat = 0 ∨ 512 < len.toNat then ended .length false 0#32 0#32 s
      else if ¬(q.dir = .output ∧ q.enableData = false) then ended .portState false 0#32 0#32 s
      else { s with cmdLen := len, busy := true, cmdPhase := .wait } := by
  rw [State.withPort_some hq, acceptRaw_eq len q.not_rawSendReady_iff]

theorem exec_rdmRespondDisc {port : BitVec 4} {s : State} {q : Port} (hq : s.ports[port.toNat]? = some q) (len : BitVec 10) :
    exec (.rdmRespondDisc port len) s = .next (
      if len.toNat = 0 ∨ 512 < len.toNat then ended .length false 0#32 0#32 s
      else if q.dir = .output ∧ q.enableData = true then ended .portState false 0#32 0#32 s
      else { s with cmdLen := len, busy := true, cmdPhase := .wait }) := by
  have hrefused : (!!q.txActive) = true ↔ q.dir = .output ∧ q.enableData = true := by
    rw [Bool.not_not, q.txActive_iff]
  rw [exec, execRdmRespondDisc, State.withPort_some hq, acceptRaw_eq len hrefused]

theorem exec_rdmSend {port : BitVec 4} {s : State} {q : Port} (hq : s.ports[port.toNat]? = some q) :
    exec (.rdmSend port) s = .next (
      if s.messageLength ≤ 15 then ended .length false 0#32 0#32 s
      else if ¬(q.dir = .output ∧ q.enableData = false) then ended .portState false 0#32 0#32 s
      else { s with cmdLen := BitVec.ofNat 10 (s.messageLength + 2), busy := true, cmdPhase := .wait }) := by
  rw [exec, execRdmSend, State.withPort_some hq]
  exact congrArg Host.Outcome.next (if_congr Iff.rfl rfl (if_congr q.not_rawSendReady_iff rfl rfl))

/-! ### Phase WAIT -/

/-- The port that was just replaced. -/
theorem State.getElem?_withPortSet_self {s : State} {p : Nat} {q : Port} (hq : s.ports[p]? = some q) (q' : Port) :
    (s.withPortSet p q').ports[p]? = some q' := (State.getElem?_withPortSet hq p).trans (if_pos rfl)

/-- Of two replacements of a port the second one counts. -/
theorem State.withPortSet_withPortSet (p : Nat) (q q' : Port) (s : State) :
    (s.withPortSet p q).withPortSet p q' = s.withPortSet p q' := by
  simp [State.withPortSet]

theorem waitOver_spacing_iff {k : RawSend} (hk : k = .sendraw ∨ k = .send) (q : Port) (s : State) :
    s.waitOver k q = true ↔ s.arg = 0#32 ∨ s.arg.toNat ≤ (s.micros - q.lastSendTs).toNat := by
  rcases hk with rfl | rfl <;> simp only [State.waitOver, Bool.or_eq_true, decide_eq_true_iff, le_elapsed_iff]

theorem waitOver_turnaround_iff {k : RawSend} (hk : k = .respondRaw ∨ k = .respondDisc) (q : Port) (s : State) :
    s.waitOver k q = true ↔ 176 ≤ (s.micros - q.rxDoneTs).toNat := by
  rcases hk with rfl | rfl <;> exact decide_eq_true_iff

theorem commandStep_wait {s : State} {q : Port} {k : RawSend} (hk : s.rawSend = some k) (hq : s.ports[s.cmdPort]? = some q)
    (hph : s.cmdPhase = .wait) : s.commandStep = if s.waitOver k q = true then s.beginRaw k s.cmdPort q else s := by
  simp only [commandStep_of_phase hq hph, State.phaseAction, State.phaseWait, hk]

theorem startBreak_eq {s : State} {p : Nat} {q : Port} (hq : s.ports[p]? = some q) : s.startBreak p =
    { s.withPortSet p { q with brk := true, wire := q.wire ++ [.brkOn s.micros] } with
      cmdT0 := s.micros
      cmdPhase := .brk } := by
  rw [State.startBreak, State.updPort_eq hq, Port.breakOn_eq]

theorem firstByte_eq {s : State} {p : Nat} {q : Port} (hq : s.ports[p]? = some q) : s.firstByte p =
    { s.withPortSet p { q with thr := s.pbuf.read 0, thrFull := true } with
      cmdPos := 1#10
      cmdPhase := if s.cmdLen = 1#10 then .drain else .data } := by
  rw [State.firstByte, State.updPort_eq hq, Port.loadThr]

/-- The preparation of a send with a break writes at most PBUF. -/
theorem prepareRaw_of_break {k : RawSend} (hk : k ≠ .respondDisc) (p : Nat) (q : Port) (s : State) :
    s.prepareRaw k p q = { s with pbuf := (s.prepareRaw k p q).pbuf } := by
  cases k with
  | sendraw | send | respondRaw => rfl
  | respondDisc => exact absurd rfl hk

/-- Phase 1 of a send with a break ends in the break, after the command's preparation and the timestamp. -/
theorem beginRaw_of_break {k : RawSend} (hk : k ≠ .respondDisc) (p : Nat) (q : Port) (s : State) : s.beginRaw k p q =
    State.startBreak p ((s.prepareRaw k p q).updPort p fun q => { q with lastSendTs := s.micros }) := by
  cases k with
  | sendraw | send | respondRaw => rfl
  | respondDisc => exact absurd rfl hk

theorem beginRaw_break {k : RawSend} (hk : k ≠ .respondDisc) {s : State} {p : Nat} {q : Port} (hq : s.ports[p]? = some q) :
    s.beginRaw k p q =
      { s.withPortSet p { q with lastSendTs := s.micros, brk := true, wire := q.wire ++ [.brkOn s.micros] } with
        pbuf := (s.prepareRaw k p q).pbuf
        cmdT0 := s.micros
        cmdPhase := .brk } := by
  generalize hpb : (s.prepareRaw k p q).pbuf = pb
  have hprep : s.prepareRaw k p q = { s with pbuf := pb } := hpb ▸ prepareRaw_of_break hk p q s
  have hq' : ({ s with pbuf := pb } : State).ports[p]? = some q := hq
  rw [beginRaw_of_break hk, hprep, State.updPort_eq hq', startBreak_eq (State.getElem?_withPortSet_self hq' _),
    State.withPortSet_withPortSet]
  rfl

/-- Phase 1 of a send with a break that only waits: RDM_SENDRAW and RDM_RESPOND_RAW. -/
theorem commandStep_wait_break {s : State} {q : Port} {k : RawSend} (hk : s.rawSend = some k)
    (hplain : k = .sendraw ∨ k = .respondRaw) (hq : s.ports[s.cmdPort]? = some q) (hph : s.cmdPhase = .wait) :
    s.commandStep = if s.waitOver k q = true then
        { s.withPortSet s.cmdPort { q with lastSendTs := s.micros, brk := true, wire := q.wire ++ [.brkOn s.micros] } with
          cmdT0 := s.micros
          cmdPhase := .brk }
      else s := by
  rcases hplain with rfl | rfl <;> rw [commandStep_wait hk hq hph, beginRaw_break (by decide) hq] <;> rfl

/-! ### Phase DRAIN -/

theorem Port.txEmpty_iff (q : Port) : q.txEmpty = true ↔ q.thrFull = false ∧ q.tsrBusy = false := by
  simp [Port.txEmpty]

theorem commandStep_drain {s : State} {q : Port} {k : RawSend} (hk : s.rawSend = some k) (hq : s.ports[s.cmdPort]? = some q)
    (hph : s.cmdPhase = .drain) :
    s.commandStep = if q.thrFull = false ∧ q.tsrBusy = false then s.endRaw k s.cmdPort else s := by
  simp only [commandStep_of_phase hq hph, State.phaseAction, State.phaseDrain, hk]
  exact if_congr q.txEmpty_iff rfl rfl

/-- Settles O36: the checks shared with RDM_RESPOND_RAW, the spacing as the wait, and the plain ending. -/
theorem rdmSendrawChecksWaitsAndEnds : Obligations.RdmSendrawChecksWaitsAndEnds := by
  refine ⟨fun port len s q hq => congrArg Host.Outcome.next (withPort_acceptRaw hq len),
    fun s q hop hq hph => ?_, fun s q hop hq hph => ?_⟩
  · have hk : s.rawSend = some .sendraw := congrArg rawSendOf hop
    rw [commandStep_wait_break hk (.inl rfl) hq hph]
    exact if_congr (waitOver_spacing_iff (.inl rfl) q s) rfl rfl
  · exact commandStep_drain (k := .sendraw) (congrArg rawSendOf hop) hq hph

/-- Settles O38: the checks shared with RDM_SENDRAW, the turnaround as the wait, and the plain ending. -/
theorem rdmRespondRawChecksWaitsAndEnds : Obligations.RdmRespondRawChecksWaitsAndEnds := by
  refine ⟨fun port len s q hq => congrArg Host.Outcome.next (withPort_acceptRaw hq len),
    fun s q hop hq hph => ?_, fun s q hop hq hph => ?_⟩
  · have hk : s.rawSend = some .respondRaw := congrArg rawSendOf hop
    rw [commandStep_wait_break hk (.inr rfl) hq hph]
    exact if_congr (waitOver_turnaround_iff (.inl rfl) q s) rfl rfl
  · exact commandStep_drain (k := .respondRaw) (congrArg rawSendOf hop) hq hph

/-! ### The message of RDM_SEND (R250, R256) -/

/-- A store above the first `n` bytes leaves them. -/
theorem Buffer.bytes_store_above (b : Buffer) {a n : Nat} (h : n ≤ a) (bs : List Byte) :
    (b.store a bs).bytes 0 n = b.bytes 0 n := by
  refine List.map_congr_left fun i hi => Buffer.read_store_ne b (.inl ?_)
  have := List.mem_range.mp hi
  omega

/-- The two checksum bytes, high byte first (20_memory.md R89), are the sum of the bytes mod 65536 (R250). -/
theorem checksum_bigEndian (bs : List Byte) :
    256 * ((checksum bs).extractLsb' 8 8).toNat + ((checksum bs).extractLsb' 0 8).toNat =
      (bs.map BitVec.toNat).sum % 65536 := by
  have hsum : (checksum bs).toNat = (bs.map BitVec.toNat).sum % 65536 := BitVec.toNat_ofNat ..
  have hlt := (checksum bs).isLt
  rw [← hsum, BitVec.extractLsb'_toNat, BitVec.extractLsb'_toNat, Nat.shiftRight_eq_div_pow, Nat.shiftRight_zero]
  omega

/-- The message of `ml` bytes in `b` with the transaction number `tn` put in and its checksum appended (R256). -/
def Buffer.finishMessage (b : Buffer) (tn : Byte) (ml : Nat) : Buffer :=
  let ck := checksum ((b.store 15 [tn]).bytes 0 ml)
  (b.store 15 [tn]).store ml [ck.extractLsb' 8 8, ck.extractLsb' 0 8]

theorem prepareMessage_pbuf (q : Port) (s : State) :
    (s.prepareMessage q).pbuf = s.pbuf.finishMessage q.tn s.messageLength := rfl

theorem Buffer.finishMessage_number (b : Buffer) (tn : Byte) {ml : Nat} (h : 15 < ml) : (b.finishMessage tn ml).read 15 = tn := by
  rw [Buffer.finishMessage, Buffer.read_store_ne _ (.inl h), Buffer.read_store_mem _ le_rfl (by simp)]
  rfl

/-- The sum is over the message with its number, which the checksum bytes lie above. -/
theorem Buffer.finishMessage_checksum (b : Buffer) (tn : Byte) (ml : Nat) :
    256 * ((b.finishMessage tn ml).read ml).toNat + ((b.finishMessage tn ml).read (ml + 1)).toNat =
      (((b.finishMessage tn ml).bytes 0 ml).map BitVec.toNat).sum % 65536 := by
  rw [Buffer.finishMessage, Buffer.read_store_mem _ le_rfl (by simp), Buffer.read_store_mem _ (Nat.le_add_right ml 1) (by simp),
    Buffer.bytes_store_above _ le_rfl, ← checksum_bigEndian]
  simp only [Nat.sub_self, Nat.add_sub_cancel_left, List.getElem_cons_zero, List.getElem_cons_succ]

theorem Buffer.finishMessage_frame (b : Buffer) (tn : Byte) {ml i : Nat} (hnumber : i ≠ 15) (hhigh : i ≠ ml)
    (hlow : i ≠ ml + 1) : (b.finishMessage tn ml).read i = b.read i := by
  rw [Buffer.finishMessage, Buffer.read_store_ne _ (by simp only [List.length_cons, List.length_nil]; omega),
    Buffer.read_store_ne _ (by simp only [List.length_cons, List.length_nil]; omega)]

/-- Settles O37: phase 1 leaves the finished message in PBUF, and phase 5 counts the transaction. -/
theorem rdmSendNumbersAndChecksumsTheMessage : Obligations.RdmSendNumbersAndChecksumsTheMessage := by
  refine ⟨fun port s q ml hq hml => ?checks, fun s q ml hop hq hph hml hlong => ?wait, fun s q hop hq hph => ?ending⟩
  case checks => exact hml ▸ exec_rdmSend hq
  case wait =>
    have hk : s.rawSend = some .send := congrArg rawSendOf hop
    have hover := waitOver_spacing_iff (.inr rfl : RawSend.send = .sendraw ∨ RawSend.send = .send) q s
    obtain rfl : ml = s.messageLength := hml
    rw [commandStep_wait hk hq hph]
    refine ⟨fun hwait => if_neg (mt hover.mp hwait), fun hdone => ⟨_, ?_, Buffer.finishMessage_number s.pbuf q.tn hlong,
      Buffer.finishMessage_checksum .., fun i => Buffer.finishMessage_frame s.pbuf q.tn⟩⟩
    rw [if_pos (hover.mpr hdone), beginRaw_break (p := s.cmdPort) (by decide) hq, State.prepareRaw, prepareMessage_pbuf]
    rfl
  case ending =>
    rw [commandStep_drain (congrArg rawSendOf hop) hq hph, State.endRaw, State.updPort_eq (p := s.cmdPort) hq]
    rfl

/-! ### The port turned round and back (R260) -/

/-- The port stops receiving and drives the line; the edge of the driver enable is recorded if there is one. -/
theorem Port.turnToOutput_eq (t : Micros) (q : Port) : q.turnToOutput t =
    { q with
      dir := .output
      enableData := false
      rxState := .idle
      rxQuietArmed := false
      wire := if q.dir = .output then q.wire else q.wire ++ [.oeOn t] } := by
  by_cases hdir : q.dir = .output <;>
    simp [Port.turnToOutput, Port.switchTo, Port.emitSwitch, Port.emit, Port.stopReceive, Port.disable, hdir]

theorem Port.returnToInput_eq (t : Micros) {q : Port} (hdir : q.dir = .output) : (q.switchTo .input t).enable =
    { q with
      dir := .input
      enableData := true
      rxState := .idle
      rxQuietArmed := false
      wire := q.wire ++ [.oeOff t] } := by
  simp [Port.switchTo, Port.emitSwitch, Port.emit, Port.stopReceive, Port.enable, hdir]

/-- Phase 1 of a discovery response ends in its first byte, from the port turned to OUTPUT. -/
theorem beginRaw_respondDisc {s : State} {p : Nat} {q : Port} (hq : s.ports[p]? = some q) : s.beginRaw .respondDisc p q =
    { s.withPortSet p { q.turnToOutput s.micros with lastSendTs := s.micros, thr := s.pbuf.read 0, thrFull := true } with
      cmdPos := 1#10
      cmdPhase := if s.cmdLen = 1#10 then .drain else .data } := by
  have hturned := State.getElem?_withPortSet_self hq (q.turnToOutput s.micros)
  have hstamped := State.getElem?_withPortSet_self hturned { q.turnToOutput s.micros with lastSendTs := s.micros }
  rw [State.beginRaw, State.prepareRaw, State.updPort_eq hq, State.updPort_eq hturned]
  refine (firstByte_eq hstamped).trans ?_
  rw [State.withPortSet_withPortSet, State.withPortSet_withPortSet]
  rfl

theorem commandStep_post {s : State} {q : Port} (hq : s.ports[s.cmdPort]? = some q) (hph : s.cmdPhase = .post) :
    s.commandStep = if 4 ≤ (s.micros - s.cmdT0).toNat then
        ended .none false 0#32 0#32 (s.withPortSet s.cmdPort (q.switchTo .input s.micros).enable)
      else s := by
  rw [commandStep_of_phase hq hph, State.phaseAction, State.phasePost, State.updPort_eq hq, State.finish_eq_ended]
  rfl

/-- Settles O39: the turn to OUTPUT is the preparation of phase 1, and the turn back is phase 6. -/
theorem rdmRespondDiscTurnsThePortRoundAndBack : Obligations.RdmRespondDiscTurnsThePortRoundAndBack := by
  refine ⟨fun port len s q hq => exec_rdmRespondDisc hq len, fun s q hop hq hph => ?wait, fun s q hop hq hph => ?drain,
    fun s q _ hq hph hdir => ?post⟩
  case wait =>
    rw [commandStep_wait (congrArg rawSendOf hop) hq hph, beginRaw_respondDisc (p := s.cmdPort) hq, Port.turnToOutput_eq]
    exact if_congr (waitOver_turnaround_iff (.inr rfl) q s) rfl rfl
  case drain => exact commandStep_drain (k := .respondDisc) (congrArg rawSendOf hop) hq hph
  case post => rw [commandStep_post hq hph, Port.returnToInput_eq _ hdir]; rfl

/-! ### Phases BREAK, MAB and DATA -/

theorem commandStep_brk {s : State} {q : Port} (hq : s.ports[s.cmdPort]? = some q) (hph : s.cmdPhase = .brk) :
    s.commandStep = if 176 ≤ (s.micros - s.cmdT0).toNat then
        { s.withPortSet s.cmdPort { q with brk := false, wire := q.wire ++ [.brkOff s.micros] } with
          cmdT0 := s.micros
          cmdPhase := .mab }
      else s := by
  rw [commandStep_of_phase hq hph, State.phaseAction, State.phaseBreak, State.updPort_eq hq, Port.breakOff_eq]
  rfl

theorem commandStep_mab {s : State} {q : Port} (hq : s.ports[s.cmdPort]? = some q) (hph : s.cmdPhase = .mab) :
    s.commandStep = if 12 ≤ (s.micros - s.cmdT0).toNat then
        { s.withPortSet s.cmdPort { q with thr := s.pbuf.read 0, thrFull := true } with
          cmdPos := 1#10
          cmdPhase := if s.cmdLen = 1#10 then .drain else .data }
      else s := by
  rw [commandStep_of_phase hq hph, State.phaseAction, State.phaseMab, firstByte_eq hq]
  rfl

theorem commandStep_data {s : State} {q : Port} (hq : s.ports[s.cmdPort]? = some q) (hph : s.cmdPhase = .data) :
    s.commandStep = if q.thrFull = false then
        { s.withPortSet s.cmdPort { q with thr := s.pbuf.read s.cmdPos.toNat, thrFull := true } with
          cmdPos := s.cmdPos + 1#10
          cmdPhase := if s.cmdPos + 1#10 = s.cmdLen then .drain else .data }
      else s := by
  rw [commandStep_of_phase hq hph, State.phaseAction, State.phaseData, State.updPort_eq hq, Port.loadThr, hph]
  exact if_congr (Bool.not_eq_true' _).to_iff rfl rfl

/-- Settles O40: the three phases act alike for every command that owns them. -/
theorem rawTransmissionSendsBreakMarkAndBytes : Obligations.RawTransmissionSendsBreakMarkAndBytes := by
  rintro s p q op - rfl hq
  exact ⟨fun _ => commandStep_brk hq, fun _ => commandStep_mab hq, fun _ => commandStep_data hq⟩

end Sys2Proof.Machine
end

section
/-! The port controller (44_port_controller.md R290 to R298): what a change of mode does to a port, then SET_DIR as its accepting
write decides on it, and the two phases of the drain. -/

namespace Sys2Proof.Machine

/-! ### The operands of SET_DIR (30_encoding.md R112) -/

theorem immD_immField (w : Word) : immD (immField w) = w.extractLsb' 0 2 := BitVec.extractLsb'_extractLsb'_of_le (by decide)

theorem immE_immField (w : Word) : immE (immField w) = w.extractLsb' 2 1 := BitVec.extractLsb'_extractLsb'_of_le (by decide)

theorem dirOperand_bits {dir : Dir} (h : dir.bits ≠ 0#2) : dirOperand dir.bits = some dir := by
  cases dir with
  | idle => exact absurd rfl h
  | input | output => rfl

/-! ### A change of mode on one port -/

/-- The wire trace after a switch to `d` (R295): the edge of the driver enable is recorded if there is one. -/
theorem Port.emitSwitch_wire (d : Dir) (t : Micros) (q : Port) : (q.emitSwitch d t).wire =
    if q.dir ≠ .output ∧ d = .output then q.wire ++ [.oeOn t]
    else if q.dir = .output ∧ d ≠ .output then q.wire ++ [.oeOff t]
    else q.wire := by
  unfold Port.emitSwitch
  split_ifs <;> rfl

theorem Port.emitSwitch_eq (d : Dir) (t : Micros) (q : Port) :
    q.emitSwitch d t = { q with wire := (q.emitSwitch d t).wire } := by
  unfold Port.emitSwitch
  split_ifs <;> rfl

/-- `Finish()` on a port (R290): it only ever enables, and only a switch to INPUT touches the receive path. -/
theorem Port.finishDir_eq (d : Dir) (e : Bool) (t : Micros) (q : Port) : q.finishDir d e t =
    { q with
      dir := d
      enableData := e || q.enableData
      rxState := if d ≠ q.dir ∧ d = .input then .idle else q.rxState
      rxQuietArmed := if d ≠ q.dir ∧ d = .input then false else q.rxQuietArmed
      wire := (q.emitSwitch d t).wire } := by
  by_cases hd : d = q.dir
  · subst hd
    cases e <;> simp [Port.finishDir, Port.enable, Port.emitSwitch]
  · rw [Port.finishDir, if_pos hd, Port.switchTo, Port.emitSwitch_eq]
    by_cases hin : d = .input
    · subst hin
      cases e <;> simp [hd, Port.stopReceive, Port.enable]
    · cases e <;> simp [hin, Port.enable]

/-- A port that needs no draining takes the mode asked for; a receive path that was on is stopped, one that comes on starts anew. -/
theorem Port.drainNow_finishDir_eq {q : Port} (hoff : q.dir ≠ .input → q.enableData = false) (d : Dir) (e : Bool) (t : Micros) :
    q.drainNow.finishDir d e t =
      { q with
        dir := d
        enableData := e
        rxState := if q.dir ≠ .input ∧ d ≠ .input then q.rxState else .idle
        rxQuietArmed := if q.dir ≠ .input ∧ d ≠ .input then q.rxQuietArmed else false
        wire := (q.emitSwitch d t).wire } := by
  rw [Port.finishDir_eq]
  by_cases hin : q.dir = .input
  · simp [Port.drainNow, hin, Port.stopReceive, Port.disable, Port.emitSwitch_wire]
  · by_cases hd : d = .input
    · simp [Port.drainNow, hin, hoff hin, hd, Ne.symm hin]
    · simp [Port.drainNow, hin, hoff hin, hd]

/-! ### The accepting write (R290, R291) -/

/-- SET_DIR with an illegal direction operand. -/
theorem exec_setDir_illegal {port : BitVec 4} {d : BitVec 2} {s : State} {q : Port} (hq : s.ports[port.toNat]? = some q)
    (hd : dirOperand d = none) (e : BitVec 1) :
    exec (.setDir port e d) s = .next (ended .operand false 0#32 0#32 s) := by
  simp only [exec, execSetDir, State.withPort_some hq, hd, State.finish_eq_ended]

/-- SET_DIR with a legal direction: it asks for the current mode, or only for the port to be enabled, or for a sending port to
be drained, or for a change that needs no waiting. -/
theorem exec_setDir {port : BitVec 4} {d : BitVec 2} {dir : Dir} {s : State} {q : Port} (hq : s.ports[port.toNat]? = some q)
    (hd : dirOperand d = some dir) (e : BitVec 1) :
    exec (.setDir port e d) s = .next (
      if dir = q.dir ∧ (q.enableData = true ↔ e = 1#1) then ended .none false 0#32 0#32 s
      else if dir = q.dir ∧ e = 1#1 then ended .none false 0#32 0#32 (s.withPortSet port.toNat q.enable)
      else if q.dir = .output ∧ q.enableData = true then { s with busy := true, cmdPhase := .dirA }
      else ended .none false 0#32 0#32
        (s.withPortSet port.toNat (q.drainNow.finishDir dir (decide (e = 1#1)) s.micros))) := by
  have henable : enableOperand e = true ↔ e = 1#1 := beq_iff_eq
  have hcurrent : enableOperand e = q.enableData ↔ (q.enableData = true ↔ e = 1#1) := by
    rw [← henable, Bool.eq_iff_iff]
    exact iff_comm
  simp only [exec, execSetDir, State.withPort_some hq, hd, State.updPort_eq hq, State.finishDir, henable, hcurrent,
    State.updPort_eq (State.getElem?_withPortSet_self hq _), State.withPortSet_withPortSet, State.finish_eq_ended]
  rfl

/-- Settles O44: a port that is only enabled keeps its receive path; any other is drained and finished in the write. -/
theorem setDirWithoutDrainTakesEffectAtOnce : Obligations.SetDirWithoutDrainTakesEffectAtOnce := by
  intro port e d dir s q hq hd hsending hlegal hchange
  have hdir : dirOperand d = some dir := by obtain ⟨rfl, rfl⟩ | ⟨rfl, rfl⟩ := hd <;> rfl
  have hoff : q.dir ≠ .input → q.enableData = false := by
    intro hin
    cases hmode : q.dir with
    | idle => exact hlegal.idleDisabled hmode
    | input => exact absurd hmode hin
    | output => exact Bool.eq_false_iff.mpr fun hon => hsending ⟨hmode, hon⟩
  rw [exec_setDir hq hdir, if_neg hchange]
  by_cases henable : dir = q.dir ∧ e = 1#1
  · rw [if_pos henable]
    obtain ⟨rfl, rfl⟩ := henable
    simp [Port.enable]
  · rw [if_neg henable, if_neg hsending, Port.drainNow_finishDir_eq hoff, Port.emitSwitch_wire]
    simp only [henable, false_or]

/-- Settles O43: an illegal operand has no direction, and the current mode is the first thing the rule tests for. -/
theorem setDirOfIllegalOrCurrentModeChangesNothing : Obligations.SetDirOfIllegalOrCurrentModeChangesNothing := by
  refine fun port e d s q hq => ⟨fun hd => exec_setDir_illegal hq ?illegal e, ?current⟩
  case illegal => obtain rfl | rfl := hd <;> rfl
  case current =>
    rintro rfl hlegal hcurrent
    rw [exec_setDir hq (dirOperand_bits hlegal), if_pos ⟨rfl, hcurrent⟩]

/-! ### The drain (R293) -/

theorem commandStep_dirA {s : State} {q : Port} (hq : s.ports[s.cmdPort]? = some q) (hph : s.cmdPhase = .dirA) :
    s.commandStep = if s.schedState = .interFrame then
        { s.withPortSet s.cmdPort { q with enableData := false } with cmdPhase := .dirB }
      else s := by
  rw [commandStep_of_phase hq hph, State.phaseAction, State.phaseDirA, State.updPort_eq hq, Port.disable]

/-- Phase 8 waits for the DMA channel and the transmitter. -/
theorem commandStep_dirB_of_sending {s : State} {q : Port} (hq : s.ports[s.cmdPort]? = some q) (hph : s.cmdPhase = .dirB)
    (hsending : ¬(q.dmaBusy = false ∧ q.thrFull = false ∧ q.tsrBusy = false)) : s.commandStep = s := by
  rw [commandStep_of_phase hq hph, State.phaseAction, State.phaseDirB, if_neg]
  simpa [Port.txEmpty] using hsending

/-- Phase 8 on a quiet port finishes with the operands in `cmd_word`. -/
theorem commandStep_dirB_of_quiet {s : State} {q : Port} {d : Dir} (hq : s.ports[s.cmdPort]? = some q)
    (hph : s.cmdPhase = .dirB) (hquiet : q.dmaBusy = false ∧ q.thrFull = false ∧ q.tsrBusy = false)
    (hd : dirOperand (s.cmdWord.extractLsb' 0 2) = some d) :
    s.commandStep = ended .none false 0#32 0#32
      (s.withPortSet s.cmdPort (q.finishDir d (decide (s.cmdWord.extractLsb' 2 1 = 1#1)) s.micros)) := by
  have hguard : (!q.dmaBusy && q.txEmpty) = true := by simpa [Port.txEmpty] using hquiet
  simp only [commandStep_of_phase hq hph, State.phaseAction, State.phaseDirB, hguard, if_true, immD_immField, immE_immField, hd,
    State.finishDir, State.updPort_eq hq, State.finish_eq_ended]
  rfl

/-- Settles O45: the accepting write gets past the checks to the drain; phase 8 finishes a disabled OUTPUT port. -/
theorem setDirDrainsASendingPort : Obligations.SetDirDrainsASendingPort := by
  refine ⟨fun port e d s q hq hdir hon hask => ?accept, ?phaseA, ?phaseB⟩
  case accept =>
    obtain rfl | ⟨rfl, rfl⟩ := hask
    · rw [exec_setDir (dir := .input) hq rfl]
      simp [hdir, hon]
    · rw [exec_setDir (dir := .output) hq rfl]
      simp [hdir, hon]
  case phaseA =>
    rintro s p q - rfl hq hph
    exact commandStep_dirA hq hph
  case phaseB =>
    rintro s p q e - hp hq hph hdir hoff rfl
    obtain rfl : p = s.cmdPort := hp
    refine ⟨commandStep_dirB_of_sending hq hph, fun hquiet hd => ?input, fun hquiet hd => ?output⟩
    case input =>
      rw [commandStep_dirB_of_quiet (d := .input) hq hph hquiet (congrArg dirOperand hd), Port.finishDir_eq, Port.emitSwitch_wire]
      simp [hdir, hoff]
    case output =>
      rw [commandStep_dirB_of_quiet (d := .output) hq hph hquiet (congrArg dirOperand hd), Port.finishDir_eq, Port.emitSwitch_wire]
      simp [hdir, hoff]

end Sys2Proof.Machine
end

section
/-! The index bounds of 45_common_semantics.md R406: the receive side of a port split into the entries that are published and
the ones being filled, which operations on a port carry the bounds over, and the bounds of the block; then every step keeps
them, so no byte is ever written outside its buffer (R405). -/

namespace Sys2Proof.Machine

/-! ### A ring whose indices move -/

/-- A completion publishes the entry that was being filled and no other. -/
theorem Published.of_publish {w : Nat} {tail head i : BitVec w} (h : Published tail (publish head tail) i) :
    Published tail head i ∨ i = head := by
  unfold publish at h
  split_ifs at h with hroom
  case neg => exact .inl h
  case pos =>
    have hnext : nextIndex head - tail = head - tail + 1#w := add_sub_right_comm head 1#w tail
    have hne : head - tail + 1#w ≠ 0#w := hnext ▸ sub_ne_zero.mpr hroom
    rw [Published, hnext, toNat_add_one_of_ne_zero hne, Nat.lt_succ_iff] at h
    exact h.lt_or_eq.imp_right fun heq => sub_left_injective (BitVec.eq_of_toNat_eq heq)

/-- Fetching an entry publishes none. -/
theorem Published.of_fetch {w : Nat} {tail head i : BitVec w} (hne : head ≠ tail) (h : Published (nextIndex tail) head i) :
    Published tail head i := by
  have hback : ∀ x : BitVec w, x - tail = x - nextIndex tail + 1#w := fun x => by
    rw [nextIndex, sub_add_eq_sub_sub, sub_add_cancel]
  have hhead : (head - tail).toNat = (head - nextIndex tail).toNat + 1 := by
    rw [hback, toNat_add_one_of_ne_zero (hback head ▸ sub_ne_zero.mpr hne)]
  have hi : (i - tail).toNat ≤ (i - nextIndex tail).toNat + 1 := by
    rw [hback, BitVec.toNat_add, BitVec.toNat_ofNat, Nat.add_mod_mod]
    exact Nat.mod_le _ _
  exact hi.trans_lt (hhead ▸ Nat.succ_lt_succ h)

/-- The oldest entry of a ring that is not empty is published. -/
theorem published_tail {w : Nat} {tail head : BitVec w} (hne : head ≠ tail) : Published tail head tail := by
  have hpos : head - tail ≠ 0#w := sub_ne_zero.mpr hne
  simpa [Published, Nat.pos_iff_ne_zero, BitVec.toNat_eq] using hpos

/-! ### The entries of a port -/

/-- What `Port.RxBounds` says of the published entries. -/
structure Port.PublishedBounds (q : Port) : Prop where
  dmx : ∀ i, Published q.dmxTail q.dmxHead i → (q.dmxRing.get i).slots.toNat ≤ 512
  rdm : ∀ i, Published q.rdmTail q.rdmHead i → (q.rdmRing.get i).cursor.toNat < 258

/-- What `Port.RxBounds` says of the entries being filled, by the receive state: `slots` of the DMX record; the cursor, the
declared length `ml` and the discovery counter of the RDM packet. -/
def RxState.FillBounds (x : RxState) (slots cursor ml cnt : Nat) : Prop :=
  match x with
  | .idle | .preBreak | .brk => True
  | .dmxData => slots ≤ 511
  | .rdmData => 1 ≤ cursor ∧ cursor ≤ 254
  | .checksumHigh => cursor = ml ∧ 3 ≤ cursor
  | .checksumLow => cursor = ml + 1 ∧ 4 ≤ cursor
  | .discPreamble => 1 ≤ cursor ∧ cursor ≤ 8
  | .discUid => cursor ≤ 9 + cnt ∧ cnt ≤ 11
  | .discChecksum => cursor ≤ 21 + cnt ∧ cnt ≤ 3

/-- The entries being filled are inside the bounds of the receive state. -/
def Port.FillsInBounds (q : Port) : Prop :=
  q.rxState.FillBounds q.dmxCur.slots.toNat q.rdmCur.cursor.toNat (q.rdmCur.data.read 2).toNat q.rdmCur.discCnt.toNat

theorem Port.FillsInBounds.of_rxState {q : Port} (h : q.FillsInBounds) {x : RxState} (hx : q.rxState = x) :
    x.FillBounds q.dmxCur.slots.toNat q.rdmCur.cursor.toNat (q.rdmCur.data.read 2).toNat q.rdmCur.discCnt.toNat := hx ▸ h

theorem Port.rxBounds_iff (q : Port) : q.RxBounds ↔ q.PublishedBounds ∧ q.FillsInBounds := by
  constructor
  · refine fun h => ⟨⟨h.dmxPublished, h.rdmPublished⟩, ?_⟩
    unfold Port.FillsInBounds
    cases hx : q.rxState with
    | idle | preBreak | brk => trivial
    | dmxData => exact h.dmxData hx
    | rdmData => exact h.rdmData hx
    | checksumHigh => exact h.checksumHigh hx
    | checksumLow => exact h.checksumLow hx
    | discPreamble => exact h.discPreamble hx
    | discUid => exact h.discUid hx
    | discChecksum => exact h.discChecksum hx
  · rintro ⟨hpub, hfill⟩
    exact
      { dmxData := hfill.of_rxState
        dmxPublished := hpub.dmx
        rdmData := hfill.of_rxState
        checksumHigh := hfill.of_rxState
        checksumLow := hfill.of_rxState
        discPreamble := hfill.of_rxState
        discUid := hfill.of_rxState
        discChecksum := hfill.of_rxState
        rdmPublished := hpub.rdm }

theorem Port.PublishedBounds.congr {q r : Port} (h : q.PublishedBounds) (hr : r.rings = q.rings) : r.PublishedBounds := by
  simp only [Port.rings, Prod.mk.injEq] at hr
  obtain ⟨⟨hdring, hdhead, hdtail⟩, hrring, hrhead, hrtail⟩ := hr
  constructor
  case dmx => rw [hdring, hdhead, hdtail]; exact h.dmx
  case rdm => rw [hrring, hrhead, hrtail]; exact h.rdm

theorem Port.PublishedBounds.setDmxCur {q : Port} (h : q.PublishedBounds) (d : DmxRecord) : (q.setDmxCur d).PublishedBounds where
  dmx i hi := by rw [((q.setDmxCur_keepsPublished d).dmx i hi).1]; exact h.dmx i hi
  rdm := h.rdm

theorem Port.PublishedBounds.setRdmCur {q : Port} (h : q.PublishedBounds) (r : RdmBuf) : (q.setRdmCur r).PublishedBounds where
  dmx := h.dmx
  rdm i hi := by rw [((q.setRdmCur_keepsPublished r).rdm i hi).1]; exact h.rdm i hi

/-- A state in which no entry is being filled bounds none. -/
theorem Port.PublishedBounds.rxBounds_of_waiting {q : Port} (h : q.PublishedBounds)
    (hx : q.rxState = .idle ∨ q.rxState = .preBreak ∨ q.rxState = .brk) : q.RxBounds := by
  refine q.rxBounds_iff.mpr ⟨h, ?_⟩
  unfold Port.FillsInBounds
  rcases hx with hx | hx | hx <;> rw [hx] <;> trivial

/-- A frame is closed with at most 512 data slots, so the record it publishes has no more. -/
theorem Port.PublishedBounds.closeDmxFrame {q : Port} (h : q.PublishedBounds) (hslots : q.dmxCur.slots.toNat ≤ 512) :
    q.closeDmxFrame.RxBounds := by
  refine rxBounds_of_waiting ⟨fun i hi => ?_, h.rdm⟩ (.inl rfl)
  rcases hi.of_publish with hi | rfl
  · rw [(q.closeDmxFrame_keepsPublished.dmx i hi).1]
    exact h.dmx i hi
  · exact (congrArg (fun d : DmxRecord => d.slots.toNat) (Bank.get_put_self ..)).trans_le hslots

/-- A packet is completed below the size of its buffer, and the entry it publishes is that packet. -/
theorem Port.PublishedBounds.rdmComplete {q : Port} (h : q.PublishedBounds) (hcursor : q.rdmCur.cursor.toNat < 258) (t : Micros) :
    (q.rdmComplete t).RxBounds := by
  refine rxBounds_of_waiting ⟨h.dmx, fun i hi => ?_⟩ (.inl rfl)
  rcases hi.of_publish with hi | rfl
  · exact h.rdm i hi
  · exact hcursor

/-! ### A received character -/

theorem RdmBuf.append_cursor_toNat {r : RdmBuf} (h : r.cursor.toNat < 511) (v : Byte) :
    (r.append v).cursor.toNat = r.cursor.toNat + 1 := by
  rw [RdmBuf.append]
  bv_omega

theorem Port.storeRdm_cursor_toNat {q : Port} (h : q.rdmCur.cursor.toNat < 511) (v : Byte) (x : RxState) (c : BitVec 16)
    (d : BitVec 4) : (q.storeRdm v x c d).rdmCur.cursor.toNat = q.rdmCur.cursor.toNat + 1 := by
  rw [Port.storeRdm_rdmCur]
  exact RdmBuf.append_cursor_toNat h v

/-- The next byte of a packet keeps the bounds when the cursor after it is inside the bounds of the next state. -/
theorem Port.PublishedBounds.storeRdm {q : Port} (h : q.PublishedBounds) (hroom : q.rdmCur.cursor.toNat < 511) {v : Byte}
    {x : RxState} {c : BitVec 16} {d : BitVec 4}
    (hfill : x.FillBounds q.dmxCur.slots.toNat (q.rdmCur.cursor.toNat + 1)
      ((q.rdmCur.data.write q.rdmCur.cursor.toNat v).read 2).toNat d.toNat) : (q.storeRdm v x c d).RxBounds := by
  refine (Port.rxBounds_iff _).mpr ⟨(h.setRdmCur _).congr rfl, ?_⟩
  rw [Port.FillsInBounds, Port.storeRdm_cursor_toNat hroom, Port.storeRdm_rdmCur]
  exact hfill

/-- The third byte of a packet stays what it is while later bytes are stored. -/
theorem Buffer.read_two_write (b : Buffer) {i : Nat} (h : 3 ≤ i) (v : Byte) : (b.write i v).read 2 = b.read 2 := by
  rw [Buffer.read_write, if_neg (by omega)]

theorem Port.PublishedBounds.charInBreak {q : Port} (h : q.PublishedBounds) (v : Byte) : (q.charInBreak v).RxBounds := by
  unfold Port.charInBreak
  split_ifs
  case pos =>
    refine (Port.rxBounds_iff _).mpr ⟨(h.setDmxCur _).congr rfl, ?_⟩
    exact (congrArg (fun d : DmxRecord => d.slots.toNat) (Bank.get_put_self ..)).trans_le (Nat.zero_le _)
  all_goals
    refine (Port.rxBounds_iff _).mpr ⟨(h.setRdmCur _).congr rfl, ?_⟩
    simp [Port.FillsInBounds, Port.rdmCur, Port.setRdmCur, RxState.FillBounds]

/-- The slot fits below the 512th, which closes the frame. -/
theorem Port.PublishedBounds.charInDmxData {q : Port} (h : q.PublishedBounds) (hx : q.rxState = .dmxData)
    (hslots : q.dmxCur.slots.toNat ≤ 511) (v : Byte) : (q.charInDmxData v).RxBounds := by
  have hnext : (q.dmxCur.slots + 1#10).toNat = q.dmxCur.slots.toNat + 1 := by bv_omega
  have hcur : ∀ d : DmxRecord, (q.setDmxCur d).dmxCur.slots = d.slots := fun d => congrArg DmxRecord.slots (Bank.get_put_self ..)
  unfold Port.charInDmxData
  dsimp only [Config.dmxMaxSlots]
  split_ifs with hlast
  · exact (h.setDmxCur _).closeDmxFrame (by rw [hcur]; exact hlast.le)
  · refine (Port.rxBounds_iff _).mpr ⟨h.setDmxCur _, ?_⟩
    rw [Port.FillsInBounds, Port.setDmxCur_rxState, hx, hcur]
    dsimp only [RxState.FillBounds]
    omega

/-- The declared length ends a message where the cursor has reached it, and 255 bytes end any other. -/
theorem Port.PublishedBounds.charInRdmData {q : Port} (h : q.PublishedBounds) (hx : q.rxState = .rdmData)
    (hcursor : q.rdmCur.cursor.toNat ≤ 254) (v : Byte) : (q.charInRdmData v).RxBounds := by
  have hnext := RdmBuf.append_cursor_toNat (r := q.rdmCur) (by omega) v
  rw [Port.charInRdmData_eq hx, hnext]
  refine h.storeRdm (by omega) ?_
  split_ifs with hreached hlong
  · exact ⟨hreached.2, hreached.1⟩
  · trivial
  · exact ⟨by omega, by omega⟩

theorem Port.charInDiscPreamble_eq_ite (v : Byte) (q : Port) : q.charInDiscPreamble v =
    if v = 0xAA#8 ∨ (RdmBuf.append v q.rdmCur).cursor.toNat = 9 then q.storeRdm v .discUid q.rdmCur.cksum 0#4
    else q.storeRdm v q.rxState q.rdmCur.cksum q.rdmCur.discCnt := rfl

theorem Port.charInChecksumLow_eq_ite (t : Micros) (v : Byte) (q : Port) : q.charInChecksumLow t v =
    if (RdmBuf.append v q.rdmCur).accepted then (q.storeRdm v q.rxState q.rdmCur.cksum q.rdmCur.discCnt).rdmComplete t
    else q.storeRdm v .idle q.rdmCur.cksum q.rdmCur.discCnt := rfl

/-- A packet that its next byte completes. -/
theorem Port.PublishedBounds.completeRdm {q : Port} (h : q.PublishedBounds) (hcursor : q.rdmCur.cursor.toNat < 257) (t : Micros)
    {v : Byte} {x : RxState} {c : BitVec 16} {d : BitVec 4} : ((q.storeRdm v x c d).rdmComplete t).RxBounds := by
  have hpub : (q.storeRdm v x c d).PublishedBounds := (h.setRdmCur _).congr rfl
  refine hpub.rdmComplete ?_ t
  rw [Port.storeRdm_cursor_toNat (by omega)]
  exact Nat.succ_lt_succ hcursor

/-- The rule of each receive state leads to the bounds of the state it enters. -/
theorem Port.RxBounds.charInState {q : Port} (h : q.RxBounds) (t : Micros) (v : Byte) : (q.charInState t v).RxBounds := by
  obtain ⟨hpub, hfill⟩ := q.rxBounds_iff.mp h
  unfold Port.charInState
  cases hx : q.rxState with
  | idle | preBreak => exact h
  | brk => exact hpub.charInBreak v
  | dmxData => exact hpub.charInDmxData hx (hfill.of_rxState hx) v
  | rdmData =>
    obtain ⟨-, hcursor⟩ := hfill.of_rxState hx
    exact hpub.charInRdmData hx hcursor v
  | checksumHigh =>
    obtain ⟨hml, hlong⟩ := hfill.of_rxState hx
    refine hpub.storeRdm (x := .checksumLow) (c := q.rdmCur.cksum) (d := q.rdmCur.discCnt) (by omega) ?_
    rw [Buffer.read_two_write _ hlong]
    exact ⟨congrArg (· + 1) hml, Nat.succ_le_succ hlong⟩
  | checksumLow =>
    obtain ⟨hml, -⟩ := hfill.of_rxState hx
    dsimp only
    rw [Port.charInChecksumLow_eq_ite]
    split_ifs
    · exact hpub.completeRdm (by omega) t
    · exact hpub.storeRdm (by omega) trivial
  | discPreamble =>
    obtain ⟨-, hcursor⟩ := hfill.of_rxState hx
    dsimp only
    rw [Port.charInDiscPreamble_eq_ite, hx, RdmBuf.append_cursor_toNat (by omega)]
    split_ifs with hended
    · exact hpub.storeRdm (by omega) ⟨Nat.succ_le_succ hcursor, Nat.zero_le _⟩
    · exact hpub.storeRdm (by omega) ⟨Nat.le_add_left .., by omega⟩
  | discUid =>
    obtain ⟨hcursor, hcnt⟩ := hfill.of_rxState hx
    dsimp only
    rw [Port.charInDiscUid_eq, hx]
    split_ifs with hlast
    · exact hpub.storeRdm (by omega) ⟨by bv_omega, Nat.zero_le _⟩
    · exact hpub.storeRdm (by omega) ⟨by bv_omega, by bv_omega⟩
  | discChecksum =>
    obtain ⟨hcursor, hcnt⟩ := hfill.of_rxState hx
    dsimp only
    rw [Port.charInDiscChecksum_eq, hx]
    split_ifs with hlast
    · exact hpub.completeRdm (by omega) t
    · exact hpub.storeRdm (by omega) ⟨by bv_omega, by bv_omega⟩

theorem Port.lineChar_rxBounds {q : Port} (h : q.RxBounds) (t : Micros) (v : Byte) : (q.lineChar t v).RxBounds := by
  unfold Port.lineChar
  split_ifs
  · exact Port.RxBounds.charInState (q := q.heard) { h with } t v
  · exact h

/-- The timeout closes a frame with fewer than 512 slots. -/
theorem Port.idleTimer_rxBounds {q : Port} (h : q.RxBounds) : q.idleTimer.RxBounds := by
  unfold Port.idleTimer Port.idleTimeout
  dsimp only
  split_ifs with _ _ hx
  · obtain ⟨hpub, hfill⟩ := q.rxBounds_iff.mp h
    exact Port.PublishedBounds.closeDmxFrame (hpub.congr rfl) ((hfill.of_rxState hx).trans (by decide))
  all_goals exact { h with }

/-! ### The operations on a port -/

/-- An operation that takes the port `q` to `r` carries the bounds of the receive side over, and with them that every buffer of
the port is in its place and inside its size. -/
structure Port.KeepsBounds (q r : Port) : Prop where
  rx : q.RxBounds → r.RxBounds
  inside : ∀ p, q.RxBounds → q.Inside p → r.Inside p

/-- All that the bounds of a port read, but for the receive state: the transmit slots and the rings. -/
def Port.buffers (q : Port) := (q.txBuf, q.rings)

/-- What leaves the buffers and the ring indices alone keeps the bounds, also when it takes the receive state back to one in
which no entry is being filled. -/
theorem Port.KeepsBounds.of_buffers {q r : Port} (h : r.buffers = q.buffers)
    (hx : r.rxState = q.rxState ∨ r.rxState = .idle ∨ r.rxState = .preBreak ∨ r.rxState = .brk) : q.KeepsBounds r := by
  obtain ⟨htx, hrings⟩ := Prod.mk.inj h
  have hparts := hrings
  simp only [Port.rings, Prod.mk.injEq] at hparts
  obtain ⟨⟨hdring, hdhead, -⟩, hrring, hrhead, -⟩ := hparts
  constructor
  case inside => exact fun p _ hi => hi.congr htx hdring hrring
  case rx =>
    intro hq
    obtain ⟨hpub, hfill⟩ := q.rxBounds_iff.mp hq
    rcases hx with hx | hx
    · refine r.rxBounds_iff.mpr ⟨hpub.congr hrings, ?_⟩
      rw [Port.FillsInBounds, hx, Port.dmxCur, Port.rdmCur, hdring, hdhead, hrring, hrhead]
      exact hfill
    · exact (hpub.congr hrings).rxBounds_of_waiting hx

theorem Port.KeepsBounds.of_same {q r : Port} (h : r.buffers = q.buffers) (hx : r.rxState = q.rxState) : q.KeepsBounds r :=
  .of_buffers h (.inl hx)

theorem Port.KeepsBounds.refl (q : Port) : q.KeepsBounds q := .of_same rfl rfl

theorem Port.KeepsBounds.trans {q r s : Port} (h : q.KeepsBounds r) (h' : r.KeepsBounds s) : q.KeepsBounds s where
  rx hb := h'.rx (h.rx hb)
  inside p hb hi := h'.inside p (h.rx hb) (h.inside p hb hi)

theorem Port.lineChar_keepsBounds (t : Micros) (v : Byte) (q : Port) : q.KeepsBounds (q.lineChar t v) where
  rx hb := Port.lineChar_rxBounds hb t v
  inside _ hb hi := Port.lineChar_inside hi hb t v

theorem Port.idleTimer_keepsBounds (q : Port) : q.KeepsBounds q.idleTimer where
  rx hb := Port.idleTimer_rxBounds hb
  inside _ _ hi := Port.idleTimer_inside hi

theorem Port.lineError_keepsBounds (q : Port) : q.KeepsBounds q.lineError := by
  unfold Port.lineError
  split_ifs
  · exact .of_buffers rfl (.inr (.inr (.inl rfl)))
  · exact .refl q

theorem Port.lineMark_keepsBounds (q : Port) : q.KeepsBounds q.lineMark := by
  unfold Port.lineMark
  split_ifs
  · exact .of_buffers rfl (.inr (.inr (.inr rfl)))
  · exact .refl q

theorem Port.charEnd_keepsBounds (q : Port) : q.KeepsBounds q.charEnd := by
  unfold Port.charEnd
  split_ifs <;> exact .of_same rfl rfl

theorem Port.charStart_keepsBounds (t : Micros) (q : Port) : q.KeepsBounds (q.charStart t) := by
  unfold Port.charStart
  split_ifs <;> exact .of_same rfl rfl

theorem Port.dmaTransfer_keepsBounds (q : Port) : q.KeepsBounds q.dmaTransfer := by
  unfold Port.dmaTransfer
  split_ifs <;> exact .of_same rfl rfl

theorem Port.enterCycle_keepsBounds (q : Port) : q.KeepsBounds q.enterCycle := by
  unfold Port.enterCycle
  split_ifs <;> exact .of_same rfl rfl

theorem Port.ifTxset_keepsBounds {f : Port → Port} (hf : ∀ q, Port.KeepsBounds q (f q)) (q : Port) :
    q.KeepsBounds (q.ifTxset f) := by
  unfold Port.ifTxset
  split_ifs
  · exact hf q
  · exact .refl q

theorem Port.stopReceive_keepsBounds (q : Port) : q.KeepsBounds q.stopReceive := .of_buffers rfl (.inr (.inl rfl))

theorem Port.emitSwitch_keepsBounds (d : Dir) (t : Micros) (q : Port) : q.KeepsBounds (q.emitSwitch d t) := by
  unfold Port.emitSwitch
  split_ifs <;> exact .of_same rfl rfl

theorem Port.switchTo_keepsBounds (d : Dir) (t : Micros) (q : Port) : q.KeepsBounds (q.switchTo d t) := by
  have hturned : q.KeepsBounds { q.emitSwitch d t with dir := d } := (q.emitSwitch_keepsBounds d t).trans (.of_same rfl rfl)
  unfold Port.switchTo
  dsimp only
  split_ifs
  · exact hturned.trans (Port.stopReceive_keepsBounds _)
  · exact hturned

theorem Port.finishDir_keepsBounds (d : Dir) (e : Bool) (t : Micros) (q : Port) : q.KeepsBounds (q.finishDir d e t) := by
  have hswitched : q.KeepsBounds (if d ≠ q.dir then q.switchTo d t else q) := by
    split_ifs
    · exact q.switchTo_keepsBounds d t
    · exact .refl q
  unfold Port.finishDir
  dsimp only
  cases e
  · exact hswitched
  · exact hswitched.trans (.of_same rfl rfl)

theorem Port.drainNow_keepsBounds (q : Port) : q.KeepsBounds q.drainNow := by
  unfold Port.drainNow
  split_ifs
  · exact .of_buffers rfl (.inr (.inl rfl))
  · exact .refl q

theorem Port.turnToOutput_keepsBounds (t : Micros) (q : Port) : q.KeepsBounds (q.turnToOutput t) := by
  have hstopped : q.KeepsBounds q.stopReceive.disable := .of_buffers rfl (.inr (.inl rfl))
  exact hstopped.trans (Port.switchTo_keepsBounds .output t _)

theorem Port.enqueueFrame_keepsBounds {n : Nat} (hn : n ≤ 512) (src : Buffer) (q : Port) :
    q.KeepsBounds (q.enqueueFrame n src) where
  rx hb := { hb with }
  inside _ _ hi := Port.enqueueFrame_inside hi hn src

theorem Port.fetchDmx_keepsBounds {q : Port} (h : q.dmxHead ≠ q.dmxTail) :
    q.KeepsBounds { q with dmxTail := nextIndex q.dmxTail } where
  rx hb := { hb with dmxPublished := fun i hi => hb.dmxPublished i (hi.of_fetch h) }
  inside _ _ hi := hi.congr rfl rfl rfl

theorem Port.fetchRdm_keepsBounds {q : Port} (h : q.rdmHead ≠ q.rdmTail) :
    q.KeepsBounds { q with rdmTail := nextIndex q.rdmTail } where
  rx hb := { hb with rdmPublished := fun i hi => hb.rdmPublished i (hi.of_fetch h) }
  inside _ _ hi := hi.congr rfl rfl rfl

/-! ### The bounds of the block -/

/-- A change of the ports alone keeps the bounds when it carries those of every port over. -/
theorem State.IndexBounds.withPorts {s : State} (h : s.IndexBounds) {ps : List Port}
    (hps : ∀ (p : Nat) (r : Port), ps[p]? = some r → ∃ q, s.ports[p]? = some q ∧ q.KeepsBounds r) :
    State.IndexBounds { s with ports := ps } :=
  { h with
    ports := fun r hr => by
      obtain ⟨p, hp⟩ := List.mem_iff_getElem?.mp hr
      obtain ⟨q, hq, hkeeps⟩ := hps p r hp
      exact hkeeps.rx (h.ports q (List.mem_of_getElem? hq))
    inside := fun p r hp => by
      obtain ⟨q, hq, hkeeps⟩ := hps p r hp
      exact hkeeps.inside p (h.ports q (List.mem_of_getElem? hq)) (h.inside p q hq) }

theorem State.IndexBounds.eachPort {s : State} (h : s.IndexBounds) {f : Port → Port} (hf : ∀ q, Port.KeepsBounds q (f q)) :
    (s.eachPort f).IndexBounds :=
  h.withPorts fun p r hr => by
    obtain ⟨q, hq, rfl⟩ := Option.map_eq_some_iff.mp (List.getElem?_map .. ▸ hr)
    exact ⟨q, hq, hf q⟩

theorem State.IndexBounds.updPort {s : State} (h : s.IndexBounds) {p : Nat} {f : Port → Port}
    (hf : ∀ q, s.ports[p]? = some q → q.KeepsBounds (f q)) : (s.updPort p f).IndexBounds :=
  h.withPorts fun i r hr => by
    obtain ⟨q, hq, rfl⟩ := Option.map_eq_some_iff.mp (List.getElem?_modify .. ▸ hr)
    refine ⟨q, hq, ?_⟩
    split_ifs with hip
    · exact hf q (hip ▸ hq)
    · exact .refl q

theorem State.IndexBounds.storePbuf {s : State} (h : s.IndexBounds) {i : Nat} {bs : List Byte} (hi : i + bs.length ≤ 512) :
    (s.storePbuf i bs).IndexBounds := { h with pbuf := h.pbuf.store hi }

theorem State.IndexBounds.storeRbuf {s : State} (h : s.IndexBounds) {i : Nat} {bs : List Byte} (hi : i + bs.length ≤ 513) :
    (s.storeRbuf i bs).IndexBounds := { h with rbuf := h.rbuf.store hi }

/-- A phase in which no byte is still to be sent has no bounds of its own. -/
theorem State.IndexBounds.notSending {s : State} (h : s.IndexBounds) {ph : CmdPhase}
    (hph : ¬(ph = .wait ∨ ph = .brk ∨ ph = .mab ∨ ph = .data)) : State.IndexBounds { s with cmdPhase := ph } :=
  { h with
    cmdLen := fun hs => absurd hs hph
    cmdPos := fun hs => absurd (.inr (.inr (.inr hs))) hph }

theorem State.IndexBounds.complete {s : State} (h : s.IndexBounds) (e : ErrCode) (v : Bool) (a b : Word) :
    (s.complete e v a b).IndexBounds := { h.notSending (ph := .none) (by decide) with }

theorem State.IndexBounds.hold {s : State} (h : s.IndexBounds) {ph : CmdPhase}
    (hph : ¬(ph = .wait ∨ ph = .brk ∨ ph = .mab ∨ ph = .data)) : (s.hold ph).IndexBounds := { h.notSending hph with }

/-- A phase before the first byte needs only the length of the message. -/
theorem State.IndexBounds.beforeData {s : State} (h : s.IndexBounds) {ph : CmdPhase} (hph : ph ≠ .data)
    (hlen : 1 ≤ s.cmdLen.toNat ∧ s.cmdLen.toNat ≤ 512) : State.IndexBounds { s with cmdPhase := ph } :=
  { h with
    cmdLen := fun _ => hlen
    cmdPos := fun hs => absurd hs hph }

theorem State.IndexBounds.startRaw {s : State} (h : s.IndexBounds) {len : BitVec 10} (hlen : 1 ≤ len.toNat ∧ len.toNat ≤ 512) :
    (s.startRaw len).IndexBounds :=
  { h with
    cmdLen := fun _ => hlen
    cmdPos := nofun }

theorem State.IndexBounds.recomputePeriod {s : State} (h : s.IndexBounds) : s.recomputePeriod.IndexBounds := { h with }

/-- The packet at the tail of a ring that is not empty fits RBUF. -/
theorem State.IndexBounds.deliver {s : State} (h : s.IndexBounds) {p : Nat} {q : Port} (hq : s.ports[p]? = some q)
    (hne : q.rdmHead ≠ q.rdmTail) : (s.deliver p q).IndexBounds := by
  have hcursor : (q.rdmRing.get q.rdmTail).cursor.toNat < 258 :=
    (h.ports q (List.mem_of_getElem? hq)).rdmPublished _ (published_tail hne)
  have hstored := h.storeRbuf (i := 0) (bs := (q.rdmRing.get q.rdmTail).data.bytes 0 (q.rdmRing.get q.rdmTail).cursor.toNat)
    (by rw [Buffer.bytes_length]; omega)
  refine (hstored.updPort fun r hr => ?_).complete _ _ _ _
  obtain rfl := Option.some.inj (hq.symm.trans hr)
  exact Port.fetchRdm_keepsBounds hne

/-- The record at the tail of a ring that is not empty fits RBUF. -/
theorem State.IndexBounds.fetchDmx {s : State} (h : s.IndexBounds) {p : Nat} {q : Port} (hq : s.ports[p]? = some q)
    (hne : q.dmxHead ≠ q.dmxTail) :
    ((s.storeRbuf 0 ((q.dmxRing.get q.dmxTail).data.bytes 0 ((q.dmxRing.get q.dmxTail).slots.toNat + 1))).updPort p
      fun q => { q with dmxTail := nextIndex q.dmxTail }).IndexBounds := by
  have hslots : (q.dmxRing.get q.dmxTail).slots.toNat ≤ 512 :=
    (h.ports q (List.mem_of_getElem? hq)).dmxPublished _ (published_tail hne)
  have hstored := h.storeRbuf (i := 0)
    (bs := (q.dmxRing.get q.dmxTail).data.bytes 0 ((q.dmxRing.get q.dmxTail).slots.toNat + 1))
    (by rw [Buffer.bytes_length]; omega)
  refine hstored.updPort fun r hr => ?_
  obtain rfl := Option.some.inj (hq.symm.trans hr)
  exact Port.fetchDmx_keepsBounds hne

/-! ### Accepting writes -/

/-- Every accepting write keeps the bounds. -/
theorem CommandEffect.indexBounds {i : Instr} {s t : State} (h : s.IndexBounds) (hc : CommandEffect i s t) : t.IndexBounds := by
  cases hc with
  | ended e => exact h.complete _ _ _ _
  | configured b m r n hb hm hn =>
    have hset : State.IndexBounds { s with breakTime := b, mabTime := m, periodReq := r, slots := n } :=
      { h with slots := hn.elim (· ▸ h.slots) And.right }
    exact hset.recomputePeriod.complete _ _ _ _
  | enqueued port len q n hi hq hn =>
    have hport := h.updPort (p := port.toNat) fun r _ => r.enqueueFrame_keepsBounds (hn.trans h.slots) s.pbuf
    exact hport.recomputePeriod.complete _ _ _ _
  | enabled p q hp hq hd => exact (h.updPort fun r _ => by exact .of_same rfl rfl).complete _ _ _ _
  | turned p q d e hp hq ht hd =>
    exact ((h.updPort fun r _ => r.drainNow_keepsBounds).updPort fun r _ => r.finishDir_keepsBounds d e _).complete _ _ _ _
  | draining p q hf hp hq ht => exact h.hold (by decide)
  | raw p q len hf hp hq ht hl => exact h.startRaw hl
  | counted r0 => exact h.complete _ _ _ _
  | fetched port q r0 r1 n hi hq hr hn =>
    subst hn
    exact (h.fetchDmx hq hr).complete _ _ _ _
  | delivered port q t0 hi hq hr => exact State.IndexBounds.deliver (s := { s with cmdT0 := t0 }) { h with } hq hr
  | timedOut => exact State.IndexBounds.complete (s := { s with cmdT0 := s.micros }) { h with } _ _ _ _
  | waiting p hf hp hq => exact State.IndexBounds.hold (s := { s with cmdT0 := s.micros }) { h with } (by decide)

/-! ### Phases of the command in progress -/

/-- The transaction number and the checksum go inside PBUF: the declared length is a byte. -/
theorem State.IndexBounds.prepareMessage {s : State} (h : s.IndexBounds) (q : Port) : (s.prepareMessage q).IndexBounds := by
  have hml : s.messageLength < 256 := (s.pbuf.read 2).isLt
  exact (h.storePbuf (show 15 + 1 ≤ 512 by decide)).storePbuf (by simp only [List.length_cons, List.length_nil]; omega)

theorem State.IndexBounds.prepareRaw {s : State} (h : s.IndexBounds) (k : RawSend) (p : Nat) (q : Port) :
    (s.prepareRaw k p q).IndexBounds := by
  cases k with
  | sendraw => exact h
  | send => exact h.prepareMessage q
  | respondRaw => exact h
  | respondDisc => exact h.updPort fun r _ => r.turnToOutput_keepsBounds _

theorem prepareRaw_cmdLen (k : RawSend) (p : Nat) (q : Port) (s : State) : (s.prepareRaw k p q).cmdLen = s.cmdLen := by
  cases k <;> rfl

/-- After the first byte the cursor is 1, and a message of one byte has no data left. -/
theorem State.IndexBounds.firstByte {s : State} (h : s.IndexBounds) (hlen : 1 ≤ s.cmdLen.toNat ∧ s.cmdLen.toNat ≤ 512)
    (p : Nat) : (s.firstByte p).IndexBounds :=
  { h.updPort (p := p) (f := Port.loadThr (s.pbuf.read 0)) fun _ _ => by exact .of_same rfl rfl with
    cmdLen := fun _ => hlen
    cmdPos := fun hdata => by
      have hmore : s.cmdLen ≠ 1#10 := fun hone => by simp [State.firstByte, hone] at hdata
      simp only [State.firstByte, State.updPort_cmdLen]
      bv_omega }

theorem State.IndexBounds.startBreak {s : State} (h : s.IndexBounds) (hlen : 1 ≤ s.cmdLen.toNat ∧ s.cmdLen.toNat ≤ 512)
    (p : Nat) : (s.startBreak p).IndexBounds := by
  have hport : (s.updPort p (Port.breakOn s.micros)).IndexBounds := h.updPort fun _ _ => by exact .of_same rfl rfl
  exact { hport.beforeData (ph := .brk) (by decide) hlen with }

theorem State.IndexBounds.beginRaw {s : State} (h : s.IndexBounds) (hlen : 1 ≤ s.cmdLen.toNat ∧ s.cmdLen.toNat ≤ 512)
    (k : RawSend) (p : Nat) (q : Port) : (s.beginRaw k p q).IndexBounds := by
  have hprep : ((s.prepareRaw k p q).updPort p fun q => { q with lastSendTs := s.micros }).IndexBounds :=
    (h.prepareRaw k p q).updPort fun _ _ => by exact .of_same rfl rfl
  rw [← prepareRaw_cmdLen k p q] at hlen
  cases k with
  | sendraw => exact hprep.startBreak hlen p
  | send => exact hprep.startBreak hlen p
  | respondRaw => exact hprep.startBreak hlen p
  | respondDisc => exact hprep.firstByte hlen p

theorem State.IndexBounds.endRaw {s : State} (h : s.IndexBounds) (k : RawSend) (p : Nat) : (s.endRaw k p).IndexBounds := by
  cases k with
  | sendraw => exact h.complete _ _ _ _
  | send => exact (h.updPort fun _ _ => by exact .of_same rfl rfl).complete _ _ _ _
  | respondRaw => exact h.complete _ _ _ _
  | respondDisc => exact { h.notSending (ph := .post) (by decide) with }

/-- The next byte leaves the cursor below the length, or it was the last one. -/
theorem State.IndexBounds.nextByte {s : State} (h : s.IndexBounds) (hph : s.cmdPhase = .data) (p : Nat) (v : Byte) :
    State.IndexBounds
      { s.updPort p (Port.loadThr v) with
        cmdPos := s.cmdPos + 1#10
        cmdPhase := if s.cmdPos + 1#10 = s.cmdLen then .drain else s.cmdPhase } :=
  { h.updPort (p := p) (f := Port.loadThr v) fun _ _ => by exact .of_same rfl rfl with
    cmdLen := fun _ => h.cmdLen (.inr (.inr (.inr hph)))
    cmdPos := fun hdata => by
      obtain ⟨hfirst, hbelow⟩ := h.cmdPos hph
      have hmore : s.cmdPos + 1#10 ≠ s.cmdLen := fun hlast => by simp [hlast] at hdata
      simp only [State.updPort_cmdLen]
      bv_omega }

/-- The command engine's substep keeps the bounds. -/
theorem State.IndexBounds.commandStep {s : State} (h : s.IndexBounds) : s.commandStep.IndexBounds := by
  generalize hu : s.commandStep = u
  cases hu ▸ commandStep_cases s with
  | held => exact h
  | broke q k hk hq hph => exact h.beginRaw (h.cmdLen (.inl hph)) k _ q
  | responded q hq hph => exact h.beginRaw (h.cmdLen (.inl hph)) .respondDisc _ q
  | marked q hq hph =>
    have hport : (s.updPort s.cmdPort (Port.breakOff s.micros)).IndexBounds := h.updPort fun _ _ => by exact .of_same rfl rfl
    exact { hport.beforeData (ph := .mab) (by decide) (h.cmdLen (.inr (.inl hph))) with }
  | started q hq hph => exact h.firstByte (h.cmdLen (.inr (.inr (.inl hph)))) _
  | sent q hq hph hf => exact h.nextByte hph _ _
  | drained q k hq hph he => exact h.endRaw k _
  | returned q hq hph =>
    exact (h.updPort fun r _ => by exact (r.switchTo_keepsBounds .input _).trans (.of_same rfl rfl)).complete _ _ _ _
  | disabled q hq hph hs =>
    have hport : (s.updPort s.cmdPort Port.disable).IndexBounds := h.updPort fun _ _ => by exact .of_same rfl rfl
    exact hport.notSending (by decide)
  | switched q d e hq hph he hd => exact (h.updPort fun r _ => r.finishDir_keepsBounds d e _).complete _ _ _ _
  | delivered q hq hph hr => exact h.deliver hq hr
  | timedOut hph => exact h.complete _ _ _ _

/-! ### The scheduler, the tick and the step -/

theorem State.IndexBounds.schedTick {s : State} (h : s.IndexBounds) : s.schedTick.IndexBounds := by
  have hbreak : s.enterBreak.IndexBounds := by
    have hcycle : (s.eachPort Port.enterCycle).IndexBounds := h.eachPort Port.enterCycle_keepsBounds
    have hbroken := hcycle.eachPort (Port.ifTxset_keepsBounds (f := Port.breakOn s.micros) fun _ => .of_same rfl rfl)
    exact { hbroken with }
  have hmab : s.enterMab.IndexBounds :=
    { h.eachPort (Port.ifTxset_keepsBounds (f := Port.breakOff s.micros) fun _ => .of_same rfl rfl) with }
  have hdata : s.enterInterFrame.IndexBounds :=
    { h.eachPort (f := Port.startStaged) (Port.ifTxset_keepsBounds fun q => by split_ifs <;> exact .of_same rfl rfl) with }
  unfold State.schedTick
  cases s.schedState with
  | idle | data | interFrame => exact hbreak
  | brk => exact hmab
  | mab => exact hdata

theorem State.IndexBounds.schedCountdown {s : State} (h : s.IndexBounds) : s.schedCountdown.IndexBounds := by
  rw [schedCountdown_eq]
  split_ifs
  · rw [schedTick_schedTimer]
    exact h.schedTick
  · exact { h with }

theorem State.IndexBounds.statsCountdown {s : State} (h : s.IndexBounds) : s.statsCountdown.IndexBounds := by
  unfold State.statsCountdown
  dsimp only
  split_ifs
  · exact { h.eachPort (f := Port.latchUps) fun _ => .of_same rfl rfl with }
  · exact { h with }

theorem State.IndexBounds.tick {s : State} (h : s.IndexBounds) : s.tick.IndexBounds :=
  tick_keeps (P := State.IndexBounds)
    (fun _ h => { h with })
    (fun _ h => h.eachPort Port.charEnd_keepsBounds)
    (fun _ h => h.eachPort Port.idleTimer_keepsBounds)
    (fun _ h => h.statsCountdown)
    (fun _ h => h.schedCountdown)
    (fun _ h => h.eachPort Port.dmaTransfer_keepsBounds)
    (fun _ h => h.commandStep)
    (fun s h => h.eachPort (Port.charStart_keepsBounds s.micros)) h

/-- Settles O59, event by event: every index a step writes at is inside its buffer, and every index it leaves is inside the
bounds. -/
theorem everyStepKeepsTheIndexBounds : Obligations.EveryStepKeepsTheIndexBounds := by
  intro s t hs hstep
  refine step_keeps (P := State.IndexBounds) ?inputs ?answered ?arg ?pbuf ?rejected ?command ?reset ?tick ?line hs hstep
  case inputs => exact fun _ _ h => { h with }
  case answered => rintro s _ h ⟨_, _, _, rfl⟩; exact { h with }
  case arg => exact fun _ _ h _ => { h with }
  case pbuf => exact fun s i v h _ hi => State.IndexBounds.storePbuf (s := { s with busErr := false }) { h with } hi
  case rejected =>
    exact fun s v e h _ => State.IndexBounds.complete (s := State.load v { s with busErr := false }) { h with } _ _ _ _
  case command => exact fun s t v i h _ _ hc => hc.indexBounds (s := State.load v { s with busErr := false }) { h with }
  case reset => exact fun s _ => { State.afterReset_indexBounds s.ports.length (s.resets + 1) with }
  case tick => exact fun _ h => h.tick
  case line =>
    rintro s p f h (rfl | rfl | ⟨v, rfl⟩)
    · exact h.updPort fun q _ => q.lineError_keepsBounds
    · exact h.updPort fun q _ => q.lineMark_keepsBounds
    · exact h.updPort fun q _ => q.lineChar_keepsBounds _ v

end Sys2Proof.Machine
end

section
/-! What an accepting write stores (45_common_semantics.md R404): which parts of the state hold the bytes of memory, and that no
command but TXDATA and the getters touches them. -/

namespace Sys2Proof.Machine

/-- The parts of the state that a byte of memory is read from. -/
def State.memory (s : State) := (s.pbuf, s.rbuf, s.ports, s.resets)

/-- The parts of a port that a byte of memory is read from: the transmit slots and the entries of the rings. -/
def Port.memory (q : Port) := (q.txBuf, q.dmxRing, q.rdmRing)

theorem State.byteAt_congr {s t : State} (h : t.memory = s.memory) (id : BufId) (k : Nat) : t.byteAt id k = s.byteAt id k := by
  simp only [State.memory, Prod.mk.injEq] at h
  obtain ⟨hpbuf, hrbuf, hports, hresets⟩ := h
  simp only [State.byteAt, hpbuf, hrbuf, hports, hresets]

theorem State.byteAt_complete (e : ErrCode) (v : Bool) (a b : Word) (s : State) (id : BufId) (k : Nat) :
    (s.complete e v a b).byteAt id k = s.byteAt id k := State.byteAt_congr rfl id k

theorem State.byteAt_updPort {f : Port → Port} (hf : ∀ q, (f q).memory = q.memory) (p : Nat) (s : State) (id : BufId) (k : Nat) :
    (s.updPort p f).byteAt id k = s.byteAt id k := by
  cases hq : s.ports[p]? with
  | none => exact State.byteAt_congr (by simp [State.memory, List.modify_eq_self (List.getElem?_eq_none_iff.mp hq)]) id k
  | some q =>
    have hmem := hf q
    simp only [Port.memory, Prod.mk.injEq] at hmem
    obtain ⟨htx, hdmx, hrdm⟩ := hmem
    rw [State.updPort_eq hq]
    exact State.byteAt_withPortSet hq hdmx hrdm id k fun _ _ => by rw [htx]

theorem State.byteAt_storeRbuf_ne {id : BufId} (h : id ≠ .rbuf) (a : Nat) (bs : List Byte) (s : State) (k : Nat) :
    (s.storeRbuf a bs).byteAt id k = s.byteAt id k := by
  cases id with
  | rbuf => exact absurd rfl h
  | _ => rfl

/-- A getter copies an entry to RBUF and advances an index of its port. -/
theorem State.byteAt_getter_ne {id : BufId} (h : id ≠ .rbuf) {f : Port → Port} (hf : ∀ q, (f q).memory = q.memory) (p : Nat)
    (bs : List Byte) (r0 r1 : Word) (s : State) (k : Nat) :
    (((s.storeRbuf 0 bs).updPort p f).complete .none true r0 r1).byteAt id k = s.byteAt id k := by
  rw [State.byteAt_complete, State.byteAt_updPort hf, State.byteAt_storeRbuf_ne h]

theorem Port.drainNow_memory (q : Port) : q.drainNow.memory = q.memory := by
  unfold Port.drainNow
  split_ifs <;> rfl

theorem Port.finishDir_memory (d : Dir) (e : Bool) (t : Micros) (q : Port) : (q.finishDir d e t).memory = q.memory := by
  rw [Port.finishDir_eq]
  rfl

/-- Every byte of memory reads as before an accepting write that is not TXDATA's, but for those of RBUF after a getter's. -/
theorem CommandEffect.byteAt {i : Instr} {s t : State} (hc : CommandEffect i s t) (htx : ∀ port len, i ≠ .txdata port len)
    {id : BufId} (hid : id ≠ .rbuf ∨ ∀ port, i ≠ .getDmx port ∧ i ≠ .rdmRecv port ∧ i ≠ .rdmRecvTo port) (k : Nat) :
    t.byteAt id k = s.byteAt id k := by
  cases hc with
  | ended e => exact State.byteAt_congr rfl id k
  | configured b m r n hb hm hn => exact State.byteAt_congr rfl id k
  | enqueued port len q n hi hq hn => exact absurd hi (htx port len)
  | enabled p q hp hq hd => exact (State.byteAt_complete ..).trans (State.byteAt_updPort (by exact fun _ => rfl) ..)
  | turned p q d e hp hq ht hd =>
    rw [State.finishDir, State.finish, State.byteAt_complete, State.byteAt_updPort fun r => r.finishDir_memory d e _,
      State.byteAt_updPort Port.drainNow_memory]
  | draining p q hf hp hq ht => exact State.byteAt_congr rfl id k
  | raw p q len hf hp hq ht hl => exact State.byteAt_congr rfl id k
  | counted r0 => exact State.byteAt_congr rfl id k
  | fetched port q r0 r1 n hi hq hr hn =>
    have hne : id ≠ .rbuf := hid.resolve_right fun hget => (hget port).1 hi
    exact State.byteAt_getter_ne hne (by exact fun _ => rfl) ..
  | delivered port q t0 hi hq hr =>
    have hne : id ≠ .rbuf := hid.resolve_right fun hget => hi.elim (hget port).2.1 (hget port).2.2
    exact (State.byteAt_getter_ne hne (by exact fun _ => rfl) ..).trans (State.byteAt_congr rfl id k)
  | timedOut => exact State.byteAt_congr rfl id k
  | waiting p hf hp hq => exact State.byteAt_congr rfl id k

/-- Settles O51, by the effects of an accepting write: the two that store to RBUF are the getters'. -/
theorem commandsKeepTheBytesTheyDoNotStore : Obligations.CommandsKeepTheBytesTheyDoNotStore := by
  intro i s t hexec htx
  have hc := exec_cases hexec
  exact ⟨fun id k hne => hc.byteAt htx (.inl hne) k, fun hget k => hc.byteAt htx (.inr hget) k⟩

end Sys2Proof.Machine
end

section
/-! Ownership (60_exceptions.md R334, 10_state.md R21): what the commands own and what the other agents own, as two readings of the
state, and that neither side writes the other's (R330, R338). -/

namespace Sys2Proof.Machine

/-! ### A reading of every port that an update leaves alone -/

theorem map_modify_of_kept {α : Type} {k : Port → α} {f : Port → Port} (hf : ∀ q, k (f q) = k q) (ps : List Port) (p : Nat) :
    (ps.modify p f).map k = ps.map k := by
  refine List.ext_getElem? fun r => ?_
  simp only [List.getElem?_map, List.getElem?_modify]
  cases ps[r]? with
  | none => rfl
  | some q => by_cases hpr : p = r <;> simp [hpr, hf]

theorem map_map_of_kept {α : Type} {k : Port → α} {f : Port → Port} (hf : ∀ q, k (f q) = k q) (ps : List Port) :
    (ps.map f).map k = ps.map k := by
  rw [List.map_map]
  exact List.map_congr_left fun q _ => hf q

theorem length_of_map_eq {α : Type} {k : Port → α} {ps qs : List Port} (h : qs.map k = ps.map k) : qs.length = ps.length := by
  simpa using congrArg List.length h

theorem kept_of_map_eq {α : Type} {k : Port → α} {ps qs : List Port} (h : qs.map k = ps.map k) {p : Nat} {q r : Port}
    (hq : ps[p]? = some q) (hr : qs[p]? = some r) : k r = k q := by
  have hp := congrArg (·[p]?) h
  simpa [hq, hr] using hp

/-! ### The line events (R329, R338) -/

/-- The three line events of a port, each an update of that port. -/
theorem step_lineEvent_updPort {s t : State} {p : Nat} {v : Byte} {rest : List Event} {e : Event}
    (he : e ∈ [Event.lineError p, Event.lineMark p, Event.lineChar p v]) (hi : s.inputs = e :: rest) (h : step s = .next t) :
    ∃ f, (f = Port.lineError ∨ f = Port.lineMark ∨ f = Port.lineChar s.micros v) ∧
      t = State.updPort p f { s with inputs := rest } := by
  rw [step_cons hi] at h
  simp only [List.mem_cons, List.not_mem_nil, or_false] at he
  rcases he with rfl | rfl | rfl
  · exact ⟨_, .inl rfl, (Host.Outcome.next.inj h).symm⟩
  · exact ⟨_, .inr (.inl rfl), (Host.Outcome.next.inj h).symm⟩
  · exact ⟨_, .inr (.inr rfl), (Host.Outcome.next.inj h).symm⟩

/-- Settles O29: a line event is an update of its one port. -/
theorem lineEventsTouchOnlyTheirPort : Obligations.LineEventsTouchOnlyTheirPort := by
  intro s t p v rest e he hi hstep
  obtain ⟨f, _, rfl⟩ := step_lineEvent_updPort he hi hstep
  exact ⟨rfl, State.length_updPort p f _, fun r hr => State.getElem?_updPort_ne hr f _⟩

/-! ### What the scheduler, the receive machine and the DMA engine own -/

/-- What the three agents own of a port: the read index of the transmit store, the heads of the rings, the DMA channel. -/
def Port.agentsOwned (q : Port) := (q.txRd, q.dmxHead, q.rdmHead, q.dmaBusy, q.dmaSlot, q.dmaPos, q.dmaLen)

/-- What the three agents own of the block: the scheduler, and their part of every port. -/
def State.agentsOwned (s : State) := (s.schedState, s.schedTimer, s.ports.map Port.agentsOwned)

theorem State.agentsOwned_updPort {f : Port → Port} (hf : ∀ q, (f q).agentsOwned = q.agentsOwned) (p : Nat) (s : State) :
    (s.updPort p f).agentsOwned = s.agentsOwned := by
  simp only [State.agentsOwned, State.updPort_schedState, State.updPort_schedTimer, State.updPort_ports, map_modify_of_kept hf]

theorem Port.switchTo_agentsOwned (d : Dir) (t : Micros) (q : Port) : (q.switchTo d t).agentsOwned = q.agentsOwned := by
  unfold Port.switchTo Port.emitSwitch
  dsimp only
  split_ifs <;> rfl

theorem Port.finishDir_agentsOwned (d : Dir) (e : Bool) (t : Micros) (q : Port) :
    (q.finishDir d e t).agentsOwned = q.agentsOwned := by
  rw [Port.finishDir_eq]
  rfl

theorem Port.drainNow_agentsOwned (q : Port) : q.drainNow.agentsOwned = q.agentsOwned := by
  unfold Port.drainNow
  split_ifs <;> rfl

theorem State.finishDir_agentsOwned (p : Nat) (d : Dir) (e : Bool) (s : State) :
    (s.finishDir p d e).agentsOwned = s.agentsOwned :=
  State.agentsOwned_updPort (fun q => q.finishDir_agentsOwned d e s.micros) p s

/-- A delivery advances the tail of the RDM ring, which the reader owns. -/
theorem State.deliver_agentsOwned (p : Nat) (q : Port) (s : State) : (s.deliver p q).agentsOwned = s.agentsOwned :=
  State.agentsOwned_updPort (f := fun q => { q with rdmTail := nextIndex q.rdmTail }) (fun _ => rfl) p s

theorem CommandEffect.agentsOwned {i : Instr} {s t : State} (hc : CommandEffect i s t) : t.agentsOwned = s.agentsOwned := by
  cases hc with
  | enqueued port len q n hi hq hn => exact State.agentsOwned_updPort (f := Port.enqueueFrame n s.pbuf) (fun _ => rfl) _ s
  | enabled p q hp hq hd => exact State.agentsOwned_updPort (f := Port.enable) (fun _ => rfl) p s
  | turned p q d e hp hq ht hd =>
    exact (State.finishDir_agentsOwned p d e _).trans (State.agentsOwned_updPort Port.drainNow_agentsOwned p s)
  | fetched port q r0 r1 n hi hq hr hn =>
    exact State.agentsOwned_updPort (f := fun q => { q with dmxTail := nextIndex q.dmxTail }) (fun _ => rfl) _ s
  | delivered port q t0 hi hq hr => exact State.deliver_agentsOwned _ q { s with cmdT0 := t0 }
  | _ => rfl

theorem State.prepareRaw_agentsOwned (k : RawSend) (p : Nat) (q : Port) (s : State) :
    (s.prepareRaw k p q).agentsOwned = s.agentsOwned := by
  cases k with
  | respondDisc => exact State.agentsOwned_updPort (fun r => Port.switchTo_agentsOwned .output s.micros r.stopReceive.disable) p s
  | _ => rfl

theorem State.startBreak_agentsOwned (p : Nat) (s : State) : (s.startBreak p).agentsOwned = s.agentsOwned :=
  State.agentsOwned_updPort (f := Port.breakOn s.micros) (fun _ => rfl) p s

theorem State.firstByte_agentsOwned (p : Nat) (s : State) : (s.firstByte p).agentsOwned = s.agentsOwned :=
  State.agentsOwned_updPort (f := Port.loadThr (s.pbuf.read 0)) (fun _ => rfl) p s

theorem State.beginRaw_agentsOwned (k : RawSend) (p : Nat) (q : Port) (s : State) :
    (s.beginRaw k p q).agentsOwned = s.agentsOwned := by
  have hprepared : ((s.prepareRaw k p q).updPort p fun q => { q with lastSendTs := s.micros }).agentsOwned = s.agentsOwned :=
    (State.agentsOwned_updPort (by exact fun _ => rfl) p _).trans (s.prepareRaw_agentsOwned k p q)
  cases k with
  | respondDisc => exact (State.firstByte_agentsOwned p _).trans hprepared
  | _ => exact (State.startBreak_agentsOwned p _).trans hprepared

theorem State.endRaw_agentsOwned (k : RawSend) (p : Nat) (s : State) : (s.endRaw k p).agentsOwned = s.agentsOwned := by
  cases k with
  | send => exact State.agentsOwned_updPort (f := fun q => { q with tn := q.tn + 1#8 }) (fun _ => rfl) p s
  | _ => rfl

theorem State.commandStep_agentsOwned (s : State) : s.commandStep.agentsOwned = s.agentsOwned := by
  generalize hu : s.commandStep = u
  cases hu ▸ commandStep_cases s with
  | broke q k hk hq hph => exact s.beginRaw_agentsOwned k _ q
  | responded q hq hph => exact s.beginRaw_agentsOwned .respondDisc _ q
  | marked q hq hph => exact State.agentsOwned_updPort (f := Port.breakOff s.micros) (fun _ => rfl) _ s
  | started q hq hph => exact s.firstByte_agentsOwned _
  | sent q hq hph hf => exact State.agentsOwned_updPort (f := Port.loadThr (s.pbuf.read s.cmdPos.toNat)) (fun _ => rfl) _ s
  | drained q k hq hph he => exact s.endRaw_agentsOwned k _
  | returned q hq hph =>
    exact State.agentsOwned_updPort (f := fun r => (Port.switchTo .input s.micros r).enable)
      (fun r => r.switchTo_agentsOwned .input s.micros) _ s
  | disabled q hq hph hs => exact State.agentsOwned_updPort (f := Port.disable) (fun _ => rfl) _ s
  | switched q d e hq hph he hd => exact s.finishDir_agentsOwned _ d e
  | delivered q hq hph hr => exact s.deliver_agentsOwned _ q
  | _ => rfl

/-- Settles O52, by the effects of an accepting write and of a phase: each updates its port outside what the agents own. -/
theorem commandsDoNotWriteWhatOtherAgentsOwn : Obligations.CommandsDoNotWriteWhatOtherAgentsOwn := by
  intro s t ht
  have hkept : t.agentsOwned = s.agentsOwned := by
    rcases ht with ⟨i, hexec⟩ | rfl
    · exact (exec_cases hexec).agentsOwned
    · exact s.commandStep_agentsOwned
  simp only [State.agentsOwned, Prod.mk.injEq] at hkept
  obtain ⟨hstate, htimer, hports⟩ := hkept
  refine ⟨hstate, htimer, length_of_map_eq hports, fun p q r hq hr => ?_⟩
  simpa only [Port.agentsOwned, Prod.mk.injEq] using kept_of_map_eq hports hq hr

/-! ### What the command engine and the host own -/

/-- What the command engine and the host own of a port: the write index of the transmit store, the tails of the rings, the mode. -/
def Port.hostOwned (q : Port) := (q.txWr, q.dmxTail, q.rdmTail, q.dir, q.enableData)

/-- What the command engine and the host own of the block: the command in progress, its operands, and their part of every port. -/
def State.hostOwned (s : State) :=
  ((s.cmdWord, s.cmdPhase, s.cmdT0, s.cmdPos, s.cmdLen), (s.arg, s.pbuf), s.ports.map Port.hostOwned)

theorem hostOwnedKept_of_eq {s t : State} (h : t.hostOwned = s.hostOwned) : HostOwnedKept s t := by
  simp only [State.hostOwned, Prod.mk.injEq] at h
  obtain ⟨hcommand, hoperands, hports⟩ := h
  exact
    { command := hcommand
      operands := hoperands
      nports := length_of_map_eq hports
      ports := fun p q r hq hr => by
        simpa only [Port.hostOwned, Prod.mk.injEq] using kept_of_map_eq hports hq hr }

theorem State.hostOwned_withPorts {s : State} {ps : List Port} (h : ps.map Port.hostOwned = s.ports.map Port.hostOwned) :
    State.hostOwned { s with ports := ps } = s.hostOwned := by
  simp only [State.hostOwned, h]

theorem State.hostOwned_updPort {f : Port → Port} (hf : ∀ q, (f q).hostOwned = q.hostOwned) (p : Nat) (s : State) :
    (s.updPort p f).hostOwned = s.hostOwned :=
  State.hostOwned_withPorts (map_modify_of_kept hf s.ports p)

theorem State.hostOwned_eachPort {f : Port → Port} (hf : ∀ q, (f q).hostOwned = q.hostOwned) (s : State) :
    (s.eachPort f).hostOwned = s.hostOwned :=
  State.hostOwned_withPorts (map_map_of_kept hf s.ports)

/-! ### The events of a port -/

theorem Port.lineError_hostOwned (q : Port) : q.lineError.hostOwned = q.hostOwned := by
  unfold Port.lineError
  split_ifs <;> rfl

theorem Port.lineMark_hostOwned (q : Port) : q.lineMark.hostOwned = q.hostOwned := by
  unfold Port.lineMark
  split_ifs <;> rfl

/-- A received character moves no tail, and touches neither the transmit store nor the mode. -/
theorem Port.charInState_hostOwned (t : Micros) (v : Byte) (q : Port) : (q.charInState t v).hostOwned = q.hostOwned := by
  obtain ⟨hside, hmode⟩ := q.charInState_sides t v
  have hrings := q.charInState_keepsPublished t v
  simp only [Port.transmitSide, Port.mode, Prod.mk.injEq] at hside hmode
  obtain ⟨⟨_, htxWr, _⟩, _⟩ := hside
  obtain ⟨hdir, henable⟩ := hmode
  simp only [Port.hostOwned, htxWr, hrings.dmxTail, hrings.rdmTail, hdir, henable]

theorem Port.lineChar_hostOwned (t : Micros) (v : Byte) (q : Port) : (q.lineChar t v).hostOwned = q.hostOwned := by
  unfold Port.lineChar
  split_ifs
  · exact Port.charInState_hostOwned t v _
  · rfl

theorem Port.idleTimer_hostOwned (q : Port) : q.idleTimer.hostOwned = q.hostOwned := by
  unfold Port.idleTimer Port.idleTimeout
  dsimp only
  split_ifs <;> rfl

theorem Port.charEnd_hostOwned (q : Port) : q.charEnd.hostOwned = q.hostOwned := by
  unfold Port.charEnd
  split_ifs <;> rfl

theorem Port.charStart_hostOwned (t : Micros) (q : Port) : (q.charStart t).hostOwned = q.hostOwned := by
  unfold Port.charStart
  split_ifs <;> rfl

theorem Port.dmaTransfer_hostOwned (q : Port) : q.dmaTransfer.hostOwned = q.hostOwned := by
  unfold Port.dmaTransfer
  split_ifs <;> rfl

theorem Port.enterCycle_hostOwned (q : Port) : q.enterCycle.hostOwned = q.hostOwned := by
  unfold Port.enterCycle
  split_ifs <;> rfl

theorem Port.ifTxset_hostOwned {f : Port → Port} (hf : ∀ q, (f q).hostOwned = q.hostOwned) (q : Port) :
    (q.ifTxset f).hostOwned = q.hostOwned := by
  unfold Port.ifTxset
  split_ifs
  · exact hf q
  · rfl

theorem Port.startStaged_hostOwned (q : Port) : q.startStaged.hostOwned = q.hostOwned :=
  Port.ifTxset_hostOwned (fun r => by split_ifs <;> rfl) q

/-! ### The substeps of a tick -/

theorem statsCountdown_hostOwned (s : State) : s.statsCountdown.hostOwned = s.hostOwned := by
  unfold State.statsCountdown
  dsimp only
  split_ifs
  · exact State.hostOwned_eachPort (f := Port.latchUps) (fun _ => rfl) _
  · rfl

/-- A scheduler tick reads `tx_wr` and advances `tx_rd` to it. -/
theorem enterBreak_hostOwned (s : State) : s.enterBreak.hostOwned = s.hostOwned :=
  (State.hostOwned_eachPort (Port.ifTxset_hostOwned (f := Port.breakOn s.micros) fun _ => rfl) _).trans
    (State.hostOwned_eachPort Port.enterCycle_hostOwned s)

theorem schedTick_hostOwned (s : State) : s.schedTick.hostOwned = s.hostOwned := by
  unfold State.schedTick
  split
  case h_2 => exact State.hostOwned_eachPort (Port.ifTxset_hostOwned (f := Port.breakOff s.micros) fun _ => rfl) s
  case h_3 => exact State.hostOwned_eachPort Port.startStaged_hostOwned s
  all_goals exact enterBreak_hostOwned s

theorem schedCountdown_hostOwned (s : State) : s.schedCountdown.hostOwned = s.hostOwned := by
  rw [schedCountdown_eq]
  split_ifs
  · exact schedTick_hostOwned _
  · rfl

/-- A tick is the command engine's substep T7 with nothing host-owned written before it or after it. -/
theorem tick_around_commandStep (s : State) : ∃ before : State, before.hostOwned = s.hostOwned ∧
    s.tick = before.commandStep.eachPort (Port.charStart before.commandStep.micros) := by
  obtain ⟨t1, t2, t3, t4, t5, t6, t7, h1, h2, h3, h4, h5, h6, rfl, ht⟩ := tick_substeps s
  refine ⟨t6, ?_, ht⟩
  calc t6.hostOwned
    _ = t5.hostOwned := h6 ▸ State.hostOwned_eachPort Port.dmaTransfer_hostOwned t5
    _ = t4.hostOwned := h5 ▸ schedCountdown_hostOwned t4
    _ = t3.hostOwned := h4 ▸ statsCountdown_hostOwned t3
    _ = t2.hostOwned := h3 ▸ State.hostOwned_eachPort Port.idleTimer_hostOwned t2
    _ = t1.hostOwned := h2 ▸ State.hostOwned_eachPort Port.charEnd_hostOwned t1
    _ = s.hostOwned := h1 ▸ rfl

theorem step_lineEvent_hostOwned {s t : State} {p : Nat} {v : Byte} {rest : List Event} {e : Event}
    (he : e ∈ [Event.lineError p, Event.lineMark p, Event.lineChar p v]) (hi : s.inputs = e :: rest) (h : step s = .next t) :
    t.hostOwned = s.hostOwned := by
  obtain ⟨f, hf, rfl⟩ := step_lineEvent_updPort he hi h
  rcases hf with rfl | rfl | rfl
  · exact State.hostOwned_updPort Port.lineError_hostOwned p { s with inputs := rest }
  · exact State.hostOwned_updPort Port.lineMark_hostOwned p { s with inputs := rest }
  · exact State.hostOwned_updPort (Port.lineChar_hostOwned s.micros v) p { s with inputs := rest }

/-- Settles O53: a line event updates its port outside what the host owns, and so does every substep of a tick but T7, which does
nothing when no command is in progress. -/
theorem eventStepsDoNotWriteWhatTheHostOwns : Obligations.EventStepsDoNotWriteWhatTheHostOwns := by
  constructor
  · rintro s t e rest hi hstep (⟨p, rfl⟩ | ⟨p, rfl⟩ | ⟨p, v, rfl⟩)
    · exact hostOwnedKept_of_eq (step_lineEvent_hostOwned (p := p) (v := 0#8) (by simp) hi hstep)
    · exact hostOwnedKept_of_eq (step_lineEvent_hostOwned (p := p) (v := 0#8) (by simp) hi hstep)
    · exact hostOwnedKept_of_eq (step_lineEvent_hostOwned (p := p) (v := v) (by simp) hi hstep)
  · intro s t rest hi hstep
    rw [step_cons hi] at hstep
    obtain ⟨before, hbefore, htick⟩ := tick_around_commandStep { s with inputs := rest }
    replace hbefore : before.hostOwned = s.hostOwned := hbefore
    obtain rfl : t = before.commandStep.eachPort (Port.charStart before.commandStep.micros) :=
      (Host.Outcome.next.inj hstep).symm.trans htick
    have hafter := State.hostOwned_eachPort (Port.charStart_hostOwned before.commandStep.micros) before.commandStep
    refine ⟨before, _, hostOwnedKept_of_eq hbefore, rfl, rfl, hostOwnedKept_of_eq hafter, fun hnone => ?_⟩
    obtain ⟨_, hphase, _⟩ := (hostOwnedKept_of_eq hbefore).command
    rw [commandStep_of_none (hphase.trans hnone)] at hafter ⊢
    exact hostOwnedKept_of_eq (hafter.trans hbefore)

end Sys2Proof.Machine
end

section
/-! Every step as one of the atomic steps of 70_reset_and_hazards.md R371, and a tick as its substeps (R372). -/

namespace Sys2Proof.Machine

theorem runEvent_answers (e : Event) (s : State) : ∃ t, runEvent e s = .next t := by
  cases e with
  | hostWrite addr v =>
    obtain ⟨t, ht, _⟩ := hostWrite_effect addr v s
    exact ⟨t, ht⟩
  | reset | tick | hostRead _ | lineError _ | lineMark _ | lineChar _ _ => exact ⟨_, rfl⟩

/-- Settles O8: a step is an event, or a tick when none is pending, and every event answers a next state. -/
theorem everyStepAnswersANextState : Obligations.EveryStepAnswersANextState := fun s => by
  unfold step
  split <;> exact runEvent_answers _ _

/-- Settles O16: the states between the substeps, with the countdown by the value it counts from, and the command engine at rest
when no command is in progress. -/
theorem tickRunsItsSubstepsInOrder : Obligations.TickRunsItsSubstepsInOrder := by
  intro s rest hi
  obtain ⟨t1, t2, t3, t4, t5, t6, t7, h1, h2, h3, h4, h5, h6, h7, ht⟩ := tick_substeps { s with inputs := rest }
  refine ⟨t1, t2, t3, t4, t5, t6, t7, _, ?_, h1, h2, h3, h4, ?_, h6, ?_, rfl⟩
  · rw [step_cons hi]
    exact congrArg Host.Outcome.next ht
  · rw [h5, schedCountdown_eq]
  · rw [h7]
    split_ifs with hnone
    · exact commandStep_of_none hnone
    · rfl

end Sys2Proof.Machine
end

section
/-! Quiet ports (70_reset_and_hazards.md R380): which operations on a port start nothing on it, what the scheduler and the phases
of the command in progress may start and on which port, and that every step keeps the block quiet. -/

namespace Sys2Proof.Machine

/-! ### One port -/

/-- The latch of the cycle and what is in flight: with `tx_active`, all that quietness reads of a port. -/
def Port.txLine (q : Port) := (q.txset, q.dmaBusy, q.thrFull, q.tsrBusy, q.brk)

/-- An operation that takes the port `q` to `r` moves at most what was in flight already along its way: from the DMA channel
over the holding register to the shift register. -/
structure Port.StartsNothing (q r : Port) : Prop where
  txActive : r.txActive = q.txActive
  brk : r.brk = q.brk
  channel : q.dmaBusy = false → r.dmaBusy = false
  transmitter : q.dmaBusy = false → q.thrFull = false → q.tsrBusy = false → r.thrFull = false ∧ r.tsrBusy = false

theorem Port.StartsNothing.still {q r : Port} (h : q.StartsNothing r) (hq : q.Still) : r.Still := by
  obtain ⟨hdma, hthr, htsr, hbrk⟩ := hq
  obtain ⟨hthr', htsr'⟩ := h.transmitter hdma hthr htsr
  exact ⟨h.channel hdma, hthr', htsr', h.brk.trans hbrk⟩

/-- What a phase leaves true of its port stays true when nothing starts on it. -/
theorem Port.StartsNothing.quietInPhase {q r : Port} (h : q.StartsNothing r) {ph : CmdPhase} (hq : q.QuietInPhase ph) :
    r.QuietInPhase ph := by
  cases ph with
  | none | dirA | recvWait => exact fun hoff => h.still (hq (h.txActive ▸ hoff))
  | wait | mab | post => exact ⟨h.txActive.trans hq.1, h.still hq.2⟩
  | brk =>
    obtain ⟨hoff, hdma, hthr, htsr⟩ := hq
    exact ⟨h.txActive.trans hoff, h.channel hdma, h.transmitter hdma hthr htsr⟩
  | data | drain =>
    obtain ⟨hoff, hdma, hbrk⟩ := hq
    exact ⟨h.txActive.trans hoff, h.channel hdma, h.brk.trans hbrk⟩
  | dirB => exact ⟨h.txActive.trans hq.1, h.brk.trans hq.2⟩

/-- A phase says nothing of a port that transmits: it excludes one, or it says what holds when the port does not transmit. -/
theorem Port.QuietInPhase.of_txActive {q r : Port} {ph : CmdPhase} (h : q.QuietInPhase ph) (hq : q.txActive = true)
    (hr : r.txActive = true) : r.QuietInPhase ph := by
  cases ph with
  | none | dirA | recvWait => exact fun hoff => absurd hr (ne_true_of_eq_false hoff)
  | wait | brk | mab | data | drain | post | dirB => exact absurd hq (ne_true_of_eq_false h.1)

/-- An operation that starts nothing and leaves the latch of the cycle alone. -/
structure Port.KeepsQuiet (q r : Port) : Prop extends q.StartsNothing r where
  txset : r.txset = q.txset

theorem Port.KeepsQuiet.of_same {q r : Port} (h : r.txLine = q.txLine) (hm : r.txActive = q.txActive) : q.KeepsQuiet r := by
  simp only [Port.txLine, Prod.mk.injEq] at h
  obtain ⟨hset, hdma, hthr, htsr, hbrk⟩ := h
  exact
    { txActive := hm
      brk := hbrk
      channel := hdma.trans
      transmitter := fun _ ht hs => ⟨hthr.trans ht, htsr.trans hs⟩
      txset := hset }

theorem Port.KeepsQuiet.refl (q : Port) : q.KeepsQuiet q := .of_same rfl rfl

/-! ### The operations on a port that start nothing -/

/-- A received character touches nothing on the way out. -/
theorem Port.charInState_txLine (t : Micros) (v : Byte) (q : Port) : (q.charInState t v).txLine = q.txLine := by
  unfold Port.charInState
  cases q.rxState with
  | brk => dsimp only [Port.charInBreak]; split_ifs <;> rfl
  | dmxData => dsimp only [Port.charInDmxData]; split_ifs <;> rfl
  | checksumLow => dsimp only [Port.charInChecksumLow]; split_ifs <;> rfl
  | discPreamble => dsimp only [Port.charInDiscPreamble]; split_ifs <;> rfl
  | discUid => dsimp only [Port.charInDiscUid]; split_ifs <;> rfl
  | discChecksum => dsimp only [Port.charInDiscChecksum]; split_ifs <;> rfl
  | idle | preBreak | rdmData | checksumHigh => rfl

theorem Port.lineChar_keepsQuiet (t : Micros) (v : Byte) (q : Port) : q.KeepsQuiet (q.lineChar t v) := by
  unfold Port.lineChar
  split_ifs
  · obtain ⟨-, hmode⟩ := Port.charInState_sides t v { q with rxQuiet := 0#32, rxQuietArmed := true }
    obtain ⟨hdir, henable⟩ := Prod.mk.inj hmode
    refine .of_same (Port.charInState_txLine t v _) ?_
    simp only [Port.txActive, hdir, henable]
  · exact .refl q

theorem Port.lineError_keepsQuiet (q : Port) : q.KeepsQuiet q.lineError := by
  unfold Port.lineError
  split_ifs <;> exact .of_same rfl rfl

theorem Port.lineMark_keepsQuiet (q : Port) : q.KeepsQuiet q.lineMark := by
  unfold Port.lineMark
  split_ifs <;> exact .of_same rfl rfl

theorem Port.idleTimer_keepsQuiet (q : Port) : q.KeepsQuiet q.idleTimer := by
  unfold Port.idleTimer Port.idleTimeout
  dsimp only
  split_ifs <;> exact .of_same rfl rfl

theorem Port.latchUps_keepsQuiet (q : Port) : q.KeepsQuiet q.latchUps := .of_same rfl rfl

/-- A character that ends frees the shift register (42_transmit_pipeline.md R227). -/
theorem Port.charEnd_keepsQuiet (q : Port) : q.KeepsQuiet q.charEnd := by
  cases hbusy : q.tsrBusy with
  | false =>
    rw [Port.charEnd_of_rest hbusy]
    exact .refl q
  | true =>
    rw [Port.charEnd_of_busy hbusy]
    exact ⟨⟨rfl, rfl, id, fun _ _ hrest => absurd hbusy (ne_true_of_eq_false hrest)⟩, rfl⟩

/-- A character starts only from a full holding register (42_transmit_pipeline.md R228). -/
theorem Port.charStart_keepsQuiet (t : Micros) (q : Port) : q.KeepsQuiet (q.charStart t) := by
  by_cases hnone : q.tsrBusy = true ∨ q.thrFull = false
  · rw [Port.charStart_of_none hnone]
    exact .refl q
  · obtain ⟨hrest, hfull⟩ : q.tsrBusy = false ∧ q.thrFull = true := by simpa using hnone
    rw [Port.charStart_of_waiting hrest hfull]
    exact ⟨⟨rfl, rfl, id, fun _ hempty _ => absurd hfull (ne_true_of_eq_false hempty)⟩, rfl⟩

/-- A byte moves only under a busy channel (42_transmit_pipeline.md R225). -/
theorem Port.dmaTransfer_keepsQuiet (q : Port) : q.KeepsQuiet q.dmaTransfer := by
  by_cases hnone : q.dmaBusy = false ∨ q.thrFull = true
  · rw [Port.dmaTransfer_of_no_request hnone]
    exact .refl q
  · obtain ⟨hbusy, hfree⟩ : q.dmaBusy = true ∧ q.thrFull = false := by simpa using hnone
    have hnot : ∀ {P : Prop}, q.dmaBusy = false → P := fun hidle => absurd hbusy (ne_true_of_eq_false hidle)
    rw [Port.dmaTransfer_of_request hbusy hfree]
    exact ⟨⟨rfl, rfl, hnot, hnot⟩, rfl⟩

/-! ### The block while the command in progress holds -/

/-- A port stays quiet when, if it does not transmit, nothing starts on it, and the clauses about the break hold anew. -/
theorem State.QuietPort.steady {s t : State} {p : Nat} {q r : Port} (h : s.QuietPort p q) (hphase : t.cmdPhase = s.cmdPhase)
    (hport : t.cmdPort = s.cmdPort) (hactive : r.txActive = q.txActive) (hr : q.txActive = false → q.StartsNothing r)
    (hlatch : r.txset = true → t.schedState = .brk ∨ t.schedState = .mab → r.txActive = true)
    (hbrk : r.brk = true → (t.schedState = .brk ∧ r.txset = true) ∨ (s.cmdPhase = .brk ∧ s.cmdPort = p)) :
    t.QuietPort p r where
  latch := hlatch
  brk := by rwa [hphase, hport]
  idle hidle hoff := by
    rw [hactive] at hoff
    rw [hphase, hport] at hidle
    exact (hr hoff).still (h.idle hidle hoff)
  command hp := by
    have hq : q.QuietInPhase s.cmdPhase := h.command (hport ▸ hp)
    rw [hphase]
    cases hon : q.txActive with
    | false => exact (hr hon).quietInPhase hq
    | true => exact hq.of_txActive hon (hactive.trans hon)

/-- All that quietness reads of the block but its ports. -/
def State.engines (s : State) := (s.schedState, s.cmdPhase, s.cmdPort)

/-- While scheduler and command engine stand, a change of the ports that starts nothing keeps the block quiet. -/
theorem State.Quiet.withPorts {s t : State} (h : s.Quiet) (he : t.engines = s.engines)
    (hps : ∀ (p : Nat) (r : Port), t.ports[p]? = some r → ∃ q, s.ports[p]? = some q ∧ q.KeepsQuiet r) : t.Quiet := by
  intro p r hr
  obtain ⟨q, hq, hkeeps⟩ := hps p r hr
  simp only [State.engines, Prod.mk.injEq] at he
  obtain ⟨hsched, hphase, hport⟩ := he
  have hquiet := h p q hq
  refine hquiet.steady hphase hport hkeeps.txActive (fun _ => hkeeps.toStartsNothing) ?_ ?_
  · rw [hkeeps.txset, hsched, hkeeps.txActive]
    exact hquiet.latch
  · rw [hkeeps.brk, hsched, hkeeps.txset]
    exact hquiet.brk

/-- Nothing else of the block is read. -/
theorem State.Quiet.congr {s t : State} (h : s.Quiet) (he : t.engines = s.engines) (hps : t.ports = s.ports) : t.Quiet :=
  h.withPorts he fun _ q hq => ⟨q, hps ▸ hq, .refl q⟩

theorem State.Quiet.eachPort {s : State} (h : s.Quiet) {f : Port → Port} (hf : ∀ q, Port.KeepsQuiet q (f q)) :
    (s.eachPort f).Quiet :=
  h.withPorts rfl fun p r hr => by
    obtain ⟨q, hq, rfl⟩ := Option.map_eq_some_iff.mp (List.getElem?_map .. ▸ hr)
    exact ⟨q, hq, hf q⟩

theorem State.Quiet.updPort {s : State} (h : s.Quiet) {p : Nat} {f : Port → Port} (hf : ∀ q, Port.KeepsQuiet q (f q)) :
    (s.updPort p f).Quiet :=
  h.withPorts rfl fun i r hr => by
    obtain ⟨q, hq, rfl⟩ := Option.map_eq_some_iff.mp (List.getElem?_modify .. ▸ hr)
    refine ⟨q, hq, ?_⟩
    split_ifs
    · exact hf q
    · exact .refl q

/-! ### The scheduler -/

theorem Port.enterBreak_of_off {q : Port} (h : q.txActive = false) (t : Micros) :
    q.enterBreak t = { q with txset := false } :=
  (q.enterBreak_eq t).trans (if_neg fun hon => absurd ((Port.txActive_iff q).mpr hon) (ne_true_of_eq_false h))

/-- The ports of the cycle are the ones that transmit when it begins (40_timing_scheduler.md R141). -/
theorem Port.enterBreak_txset (t : Micros) (q : Port) : (q.enterBreak t).txset = q.txActive := by
  cases hon : q.txActive with
  | false => rw [Port.enterBreak_of_off hon]
  | true => rw [Port.enterBreak_eq, if_pos ((Port.txActive_iff q).mp hon)]

theorem Port.enterBreak_txActive (t : Micros) (q : Port) : (q.enterBreak t).txActive = q.txActive := by
  rw [Port.enterBreak_eq]
  split_ifs <;> rfl

theorem Port.ifTxset_of_unset {q : Port} (h : q.txset = false) (f : Port → Port) : q.ifTxset f = q :=
  if_neg (h ▸ Bool.false_ne_true)

theorem Port.ifTxset_of_set {q : Port} (h : q.txset = true) (f : Port → Port) : q.ifTxset f = f q := if_pos h

/-- In the BREAK and MARK_AFTER_BREAK intervals a port that does not transmit is outside the cycle. -/
theorem State.QuietPort.unset {s : State} {p : Nat} {q : Port} (h : s.QuietPort p q)
    (hs : s.schedState = .brk ∨ s.schedState = .mab) (hoff : q.txActive = false) : q.txset = false := by
  cases hset : q.txset with
  | false => rfl
  | true => exact absurd (h.latch hset hs) (ne_true_of_eq_false hoff)

/-- The break begins on the ports that transmit; another port's break condition is the command's. -/
theorem State.Quiet.enterBreak {s : State} (h : s.Quiet) (hs : s.schedState ≠ .brk) : s.enterBreak.Quiet := by
  intro p r hr
  rw [enterBreak_eq] at hr
  obtain ⟨q, hq, rfl⟩ := Option.map_eq_some_iff.mp (List.getElem?_map .. ▸ hr)
  have hquiet := h p q hq
  have hset := q.enterBreak_txset s.micros
  have hactive := q.enterBreak_txActive s.micros
  refine hquiet.steady rfl rfl hactive ?starts (fun hr _ => ?latch) fun hb => ?brk
  case starts =>
    intro hoff
    rw [Port.enterBreak_of_off hoff]
    exact ⟨rfl, rfl, id, fun _ hthr htsr => ⟨hthr, htsr⟩⟩
  case latch => exact hactive.trans (hset.symm.trans hr)
  case brk =>
    cases hon : q.txActive with
    | true => exact .inl ⟨rfl, hset.trans hon⟩
    | false =>
      rw [Port.enterBreak_of_off hon] at hb
      exact (hquiet.brk hb).imp_left fun hbreak => absurd hbreak.1 hs

/-- The scheduler's break ends on the ports of the cycle, which transmit. -/
theorem State.Quiet.enterMab {s : State} (h : s.Quiet) (hs : s.schedState = .brk) : s.enterMab.Quiet := by
  intro p r hr
  obtain ⟨q, hq, rfl⟩ := Option.map_eq_some_iff.mp (List.getElem?_map .. ▸ hr)
  have hquiet := h p q hq
  cases hset : q.txset with
  | false =>
    rw [Port.ifTxset_of_unset hset]
    refine hquiet.steady rfl rfl rfl (fun _ => (Port.KeepsQuiet.refl q).toStartsNothing) (fun hr => ?latch) fun hb => ?brk
    case latch => exact absurd hr (ne_true_of_eq_false hset)
    case brk => exact (hquiet.brk hb).imp_left fun hbreak => absurd hbreak.2 (ne_true_of_eq_false hset)
  | true =>
    have hon : q.txActive = true := hquiet.latch hset (.inl hs)
    rw [Port.ifTxset_of_set hset]
    exact hquiet.steady rfl rfl rfl (fun hoff => absurd hon (ne_true_of_eq_false hoff)) (fun _ _ => hon) nofun

/-- The DMA starts on the ports of the cycle, which transmit (40_timing_scheduler.md R143). -/
theorem State.Quiet.enterInterFrame {s : State} (h : s.Quiet) (hs : s.schedState = .mab) : s.enterInterFrame.Quiet := by
  intro p r hr
  obtain ⟨q, hq, rfl⟩ := Option.map_eq_some_iff.mp (List.getElem?_map .. ▸ hr)
  change State.QuietPort _ p q.startStaged
  have hquiet := h p q hq
  have hactive : q.startStaged.txActive = q.txActive := by rw [Port.startStaged_eq]; split_ifs <;> rfl
  have hbrk : q.startStaged.brk = q.brk := by rw [Port.startStaged_eq]; split_ifs <;> rfl
  refine hquiet.steady rfl rfl hactive ?starts (fun _ hin => ?latch) fun hb => ?brk
  case starts =>
    intro hoff
    rw [Port.startStaged, Port.ifTxset_of_unset (hquiet.unset (.inr hs) hoff)]
    exact (Port.KeepsQuiet.refl q).toStartsNothing
  case latch => rcases hin with hin | hin <;> cases hin
  case brk => exact (hquiet.brk (hbrk.symm.trans hb)).imp_left fun hbreak => SchedState.noConfusion (hs.symm.trans hbreak.1)

theorem State.Quiet.schedTick {s : State} (h : s.Quiet) : s.schedTick.Quiet := by
  cases hs : s.schedState with
  | idle => exact schedTick_of_idle_interFrame_data (.inl hs) ▸ h.enterBreak (hs ▸ nofun)
  | interFrame => exact schedTick_of_idle_interFrame_data (.inr (.inl hs)) ▸ h.enterBreak (hs ▸ nofun)
  | data => exact schedTick_of_idle_interFrame_data (.inr (.inr hs)) ▸ h.enterBreak (hs ▸ nofun)
  | brk => exact schedTick_of_brk hs ▸ h.enterMab hs
  | mab => exact schedTick_of_mab hs ▸ h.enterInterFrame hs

theorem State.Quiet.schedCountdown {s : State} (h : s.Quiet) : s.schedCountdown.Quiet := by
  rw [schedCountdown_eq]
  split_ifs
  · rw [schedTick_schedTimer]
    exact h.schedTick
  · exact h.congr rfl rfl

theorem State.Quiet.statsCountdown {s : State} (h : s.Quiet) : s.statsCountdown.Quiet := by
  unfold State.statsCountdown
  dsimp only
  split_ifs
  · exact State.Quiet.eachPort (s := { s with statsTimer := BitVec.ofNat 32 Config.statsWindowUs }) (h.congr rfl rfl)
      Port.latchUps_keepsQuiet
  · exact h.congr rfl rfl

/-! ### The phases that leave the ports alone -/

/-- The phases in which the command engine has nothing under way on any port: no command, the first wait of the drain, and the
wait for a packet. -/
def CmdPhase.Resting (ph : CmdPhase) : Prop := ph = .none ∨ ph = .dirA ∨ ph = .recvWait

/-- What quietness says of a port in such a phase: the same of every port, whatever port the last command named. -/
structure State.RestingPort (s : State) (q : Port) : Prop where
  latch : q.txset = true → s.schedState = .brk ∨ s.schedState = .mab → q.txActive = true
  brk : q.brk = true → s.schedState = .brk ∧ q.txset = true
  still : q.txActive = false → q.Still

theorem quietInPhase_iff_of_resting {ph : CmdPhase} (h : ph.Resting) (q : Port) :
    q.QuietInPhase ph ↔ (q.txActive = false → q.Still) := by
  rcases h with rfl | rfl | rfl <;> exact Iff.rfl

theorem quietPort_iff_of_resting {s : State} (hs : s.cmdPhase.Resting) (p : Nat) (q : Port) :
    s.QuietPort p q ↔ s.RestingPort q := by
  have hphase := quietInPhase_iff_of_resting hs q
  constructor
  · intro h
    refine { latch := h.latch, brk := fun hb => (h.brk hb).resolve_right fun hbreak => ?_, still := ?_ }
    · rw [hbreak.1] at hs
      rcases hs with hs | hs | hs <;> cases hs
    · by_cases hp : s.cmdPort = p
      · exact hphase.mp (h.command hp)
      · exact h.idle (.inr hp)
  · intro h
    exact { latch := h.latch, brk := fun hb => .inl (h.brk hb), idle := fun _ => h.still, command := fun _ => hphase.mpr h.still }

theorem quiet_iff_of_resting {s : State} (hs : s.cmdPhase.Resting) : s.Quiet ↔ ∀ q ∈ s.ports, s.RestingPort q := by
  simp only [State.Quiet, quietPort_iff_of_resting hs, List.mem_iff_getElem?, forall_exists_index]
  exact forall_comm

/-- A change of a port's mode is no obstacle while it does not switch off a port that transmits. -/
theorem State.RestingPort.of_txLine {s t : State} {q r : Port} (h : s.RestingPort q) (ht : t.schedState = s.schedState)
    (hline : r.txLine = q.txLine) (hon : q.txActive = true → r.txActive = true) : t.RestingPort r := by
  simp only [Port.txLine, Prod.mk.injEq] at hline
  obtain ⟨hset, hdma, hthr, htsr, hbrk⟩ := hline
  constructor
  case latch => rw [hset, ht]; exact fun hset' hs => hon (h.latch hset' hs)
  case brk => rw [hbrk, ht, hset]; exact h.brk
  case still =>
    intro hoff
    rw [Port.Still, hdma, hthr, htsr, hbrk]
    exact h.still (Bool.eq_false_iff.mpr fun hq => absurd (hon hq) (ne_true_of_eq_false hoff))

theorem State.updPort_ports_eq {s : State} {p : Nat} {q : Port} (hq : s.ports[p]? = some q) (f : Port → Port) :
    (s.updPort p f).ports = (s.withPortSet p (f q)).ports := congrArg State.ports (State.updPort_eq hq f)

/-- From one resting phase to another, with the ports unchanged. -/
theorem State.Quiet.rest {s t : State} (h : s.Quiet) (hs : s.cmdPhase.Resting) (ht : t.cmdPhase.Resting)
    (hsched : t.schedState = s.schedState) (hports : t.ports = s.ports) : t.Quiet :=
  (quiet_iff_of_resting ht).mpr fun q hq =>
    ((quiet_iff_of_resting hs).mp h q (hports ▸ hq)).of_txLine hsched rfl id

/-- From one resting phase to another, with one port changed in what quietness does not read or in its mode. -/
theorem State.Quiet.rest_withPortSet {s t : State} (h : s.Quiet) (hs : s.cmdPhase.Resting) (ht : t.cmdPhase.Resting)
    (hsched : t.schedState = s.schedState) {p : Nat} {q r : Port} (hq : s.ports[p]? = some q)
    (hports : t.ports = (s.withPortSet p r).ports) (hline : r.txLine = q.txLine)
    (hon : q.txActive = true → r.txActive = true) : t.Quiet := by
  have hrest := (quiet_iff_of_resting hs).mp h
  refine (quiet_iff_of_resting ht).mpr fun r' hr' => ?_
  rcases State.mem_withPortSet (hports ▸ hr') with rfl | hr'
  · exact (hrest q (List.mem_of_getElem? hq)).of_txLine hsched hline hon
  · exact (hrest r' hr').of_txLine hsched rfl id

/-! ### Accepting writes -/

theorem Port.drainNow_txLine (q : Port) : q.drainNow.txLine = q.txLine := by
  unfold Port.drainNow
  split_ifs <;> rfl

theorem Port.finishDir_txLine (d : Dir) (e : Bool) (t : Micros) (q : Port) : (q.finishDir d e t).txLine = q.txLine := by
  rw [Port.finishDir_eq]
  rfl

theorem Port.enable_txActive {q : Port} (h : q.txActive = true) : q.enable.txActive = true :=
  (Port.txActive_iff _).mpr ⟨((Port.txActive_iff q).mp h).1, rfl⟩

/-- Every accepting write keeps the block quiet: the wait of a raw send starts on a port that is still, and no other command
starts anything. -/
theorem CommandEffect.quiet {i : Instr} {s t : State} (h : s.Quiet) (hnone : s.cmdPhase = .none)
    (hport : s.cmdPort = i.portBits.toNat) (hc : CommandEffect i s t) : t.Quiet := by
  have hs : s.cmdPhase.Resting := .inl hnone
  cases hc with
  | ended e => exact h.rest hs (.inl rfl) rfl rfl
  | configured b m r n hb hm hn => exact h.rest hs (.inl rfl) rfl rfl
  | counted r0 => exact h.rest hs (.inl rfl) rfl rfl
  | timedOut => exact h.rest hs (.inl rfl) rfl rfl
  | draining p q hf hp hq ht => exact h.rest hs (.inr (.inl rfl)) rfl rfl
  | waiting p hf hp hq => exact h.rest hs (.inr (.inr rfl)) rfl rfl
  | enqueued port len q n hi hq hn =>
    exact h.rest_withPortSet hs (.inl rfl) rfl hq (State.updPort_ports_eq hq _) rfl id
  | enabled p q hp hq hd =>
    exact h.rest_withPortSet hs (.inl rfl) rfl hq (State.updPort_ports_eq hq _) rfl Port.enable_txActive
  | fetched port q r0 r1 n hi hq hr hn =>
    exact h.rest_withPortSet hs (.inl rfl) rfl hq (State.updPort_ports_eq hq _) rfl id
  | delivered port q t0 hi hq hr =>
    exact h.rest_withPortSet hs (.inl rfl) rfl hq (State.updPort_ports_eq hq _) rfl id
  | turned p q d e hp hq ht hd =>
    have hline : (q.drainNow.finishDir d e s.micros).txLine = q.txLine :=
      (q.drainNow.finishDir_txLine d e s.micros).trans q.drainNow_txLine
    have hports : ((s.updPort p Port.drainNow).updPort p (Port.finishDir d e s.micros)).ports =
        (s.withPortSet p (q.drainNow.finishDir d e s.micros)).ports := by
      rw [State.updPort_eq hq, State.updPort_eq (State.getElem?_withPortSet_self hq _), State.withPortSet_withPortSet]
    exact h.rest_withPortSet hs (.inl rfl) rfl hq (hports) hline fun hon =>
      absurd hon (ne_true_of_eq_false ht)
  | raw p q len hf hp hq ht hl =>
    intro p' r hr
    have hrest := (quiet_iff_of_resting hs).mp h r (List.mem_of_getElem? hr)
    refine { latch := hrest.latch, brk := fun hb => .inl (hrest.brk hb), idle := fun _ => hrest.still, command := fun hp' => ?_ }
    obtain rfl : p' = p := hp'.symm.trans (hport.trans hp.symm)
    obtain rfl : q = r := Option.some.inj (hq.symm.trans hr)
    exact ⟨ht, hrest.still ht⟩

/-! ### Phases of the command in progress -/

theorem State.Quiet.inPhase {s : State} (h : s.Quiet) {q : Port} (hq : s.ports[s.cmdPort]? = some q) {ph : CmdPhase}
    (hph : s.cmdPhase = ph) : q.QuietInPhase ph := hph ▸ (h _ q hq).command rfl

/-- A phase action changes the port of the command in progress only, so that port is the only one to look at. -/
theorem State.Quiet.act {s t : State} (h : s.Quiet) {q r : Port} (hq : s.ports[s.cmdPort]? = some q)
    (hports : t.ports = (s.withPortSet s.cmdPort r).ports) (hsched : t.schedState = s.schedState)
    (hport : t.cmdPort = s.cmdPort) (hown : t.QuietPort s.cmdPort r) : t.Quiet := by
  intro p r' hr'
  rw [hports, State.getElem?_withPortSet hq] at hr'
  split_ifs at hr' with hp
  · exact hp ▸ Option.some.inj hr' ▸ hown
  · have hother := h p r' hr'
    have hne : s.cmdPort ≠ p := Ne.symm hp
    exact
      { latch := hsched ▸ hother.latch
        brk := fun hb => .inl (hsched ▸ (hother.brk hb).resolve_right fun hbreak => hne hbreak.2)
        idle := fun _ => hother.idle (.inr hne)
        command := fun hp' => absurd (hport.symm.trans hp') hne }

/-- The port of a command that has it to itself is out of the scheduler's cycle, so a break condition on it is the command's. -/
theorem State.QuietPort.acting {s t : State} {q r : Port} (h : s.QuietPort s.cmdPort q) (hoff : q.txActive = false)
    (hset : r.txset = q.txset) (hsched : t.schedState = s.schedState) (hport : t.cmdPort = s.cmdPort)
    (hbrk : r.brk = true → t.cmdPhase = .brk) (hr : r.QuietInPhase t.cmdPhase) : t.QuietPort s.cmdPort r where
  latch hset' hs := absurd (h.latch (hset ▸ hset') (hsched ▸ hs)) (ne_true_of_eq_false hoff)
  brk hb := .inr ⟨hbrk hb, hport⟩
  idle hidle := by
    rcases hidle with hnone | hne
    · exact (quietInPhase_iff_of_resting (.inl rfl) r).mp (hnone ▸ hr)
    · exact absurd hport hne
  command _ := hr

/-- A command ends on a still port, whatever mode it leaves the port in. -/
theorem State.QuietPort.ended {s t : State} {q r : Port} (h : s.QuietPort s.cmdPort q) (hoff : q.txActive = false)
    (hstill : q.Still) (hline : r.txLine = q.txLine) (hsched : t.schedState = s.schedState) (hport : t.cmdPort = s.cmdPort)
    (hnone : t.cmdPhase = .none) : t.QuietPort s.cmdPort r := by
  simp only [Port.txLine, Prod.mk.injEq] at hline
  obtain ⟨hset, hdma, hthr, htsr, hbrk⟩ := hline
  obtain ⟨hdma', hthr', htsr', hbrk'⟩ := hstill
  refine h.acting hoff hset hsched hport (fun hb => absurd hb (ne_true_of_eq_false (hbrk.trans hbrk'))) ?_
  rw [hnone]
  exact fun _ => ⟨hdma.trans hdma', hthr.trans hthr', htsr.trans htsr', hbrk.trans hbrk'⟩

/-- A raw send that has loaded a byte goes on to the next one or drains: the two phases leave the same true of its port. -/
theorem State.QuietPort.sending {s t : State} {q r : Port} (h : s.QuietPort s.cmdPort q) (hoff : q.txActive = false)
    (hset : r.txset = q.txset) (hsched : t.schedState = s.schedState) (hport : t.cmdPort = s.cmdPort)
    (hphase : t.cmdPhase = .drain ∨ t.cmdPhase = .data) (hr : r.QuietInPhase .data) : t.QuietPort s.cmdPort r := by
  have hparts := hr
  obtain ⟨-, -, hbrk⟩ := hparts
  refine h.acting hoff hset hsched hport (fun hb => absurd hb (ne_true_of_eq_false hbrk)) ?_
  rcases hphase with hphase | hphase <;> exact hphase ▸ hr

theorem Port.turnToOutput_txLine (t : Micros) (q : Port) : (q.turnToOutput t).txLine = q.txLine := by
  rw [Port.turnToOutput_eq]
  rfl

theorem Port.switchTo_txLine (d : Dir) (t : Micros) (q : Port) : (q.switchTo d t).txLine = q.txLine := by
  unfold Port.switchTo
  rw [Port.emitSwitch_eq]
  split_ifs <;> rfl

/-- The command engine's substep keeps the block quiet: it starts something on its own port only, in the phases that account for
it, and a command ends only when its port is still. -/
theorem State.Quiet.commandStep {s : State} (h : s.Quiet) : s.commandStep.Quiet := by
  generalize hu : s.commandStep = u
  cases hu ▸ commandStep_cases s with
  | held => exact h
  | timedOut hph => exact h.rest (.inr (.inr hph)) (.inl rfl) rfl rfl
  | delivered q hq hph hr =>
    exact h.rest_withPortSet (.inr (.inr hph)) (.inl rfl) rfl hq (State.updPort_ports_eq hq _) rfl id
  | broke q k hk hq hph =>
    obtain ⟨hoff, hdma, hthr, htsr, -⟩ := h.inPhase hq hph
    rw [beginRaw_break hk hq]
    exact h.act hq rfl rfl rfl ((h _ q hq).acting hoff rfl rfl rfl (fun _ => rfl) ⟨hoff, hdma, hthr, htsr⟩)
  | responded q hq hph =>
    obtain ⟨hoff, hdma, -, -, hbrk⟩ := h.inPhase hq hph
    have hline := q.turnToOutput_txLine s.micros
    simp only [Port.txLine, Prod.mk.injEq] at hline
    obtain ⟨hset, hdma', -, -, hbrk'⟩ := hline
    have hoff' : (q.turnToOutput s.micros).txActive = false := by rw [Port.turnToOutput_eq]; rfl
    rw [beginRaw_respondDisc hq]
    exact h.act hq rfl rfl rfl
      ((h _ q hq).sending hoff hset rfl rfl (ite_eq_or_eq _ _ _) ⟨hoff', hdma'.trans hdma, hbrk'.trans hbrk⟩)
  | marked q hq hph =>
    obtain ⟨hoff, hdma, hthr, htsr⟩ := h.inPhase hq hph
    exact h.act hq (State.updPort_ports_eq hq _) rfl rfl
      ((h _ q hq).acting hoff rfl rfl rfl nofun ⟨hoff, hdma, hthr, htsr, rfl⟩)
  | started q hq hph =>
    obtain ⟨hoff, hdma, -, -, hbrk⟩ := h.inPhase hq hph
    exact h.act hq (State.updPort_ports_eq hq _) rfl rfl
      ((h _ q hq).sending hoff rfl rfl rfl (ite_eq_or_eq _ _ _) ⟨hoff, hdma, hbrk⟩)
  | sent q hq hph hf =>
    obtain ⟨hoff, hdma, hbrk⟩ := h.inPhase hq hph
    rw [hph]
    exact h.act hq (State.updPort_ports_eq hq _) rfl rfl
      ((h _ q hq).sending hoff rfl rfl rfl (ite_eq_or_eq _ _ _) ⟨hoff, hdma, hbrk⟩)
  | drained q k hq hph he =>
    obtain ⟨hoff, hdma, hbrk⟩ := h.inPhase hq hph
    obtain ⟨hthr, htsr⟩ := q.txEmpty_iff.mp he
    have hstill : q.Still := ⟨hdma, hthr, htsr, hbrk⟩
    have hself : s.ports = (s.withPortSet s.cmdPort q).ports := by rw [State.withPortSet_self hq]
    cases k with
    | sendraw | respondRaw => exact h.act hq hself rfl rfl ((h _ q hq).ended hoff hstill rfl rfl rfl rfl)
    | send => exact h.act hq (State.updPort_ports_eq hq _) rfl rfl ((h _ q hq).ended hoff hstill rfl rfl rfl rfl)
    | respondDisc =>
      exact h.act hq hself rfl rfl
        ((h _ q hq).acting hoff rfl rfl rfl (fun hb => absurd hb (ne_true_of_eq_false hbrk)) ⟨hoff, hstill⟩)
  | returned q hq hph =>
    obtain ⟨hoff, hstill⟩ := h.inPhase hq hph
    exact h.act hq (State.updPort_ports_eq hq _) rfl rfl
      ((h _ q hq).ended hoff hstill (q.switchTo_txLine .input s.micros) rfl rfl rfl)
  | switched q d e hq hph he hd =>
    obtain ⟨hoff, hbrk⟩ := h.inPhase hq hph
    obtain ⟨hthr, htsr⟩ := q.txEmpty_iff.mp he.2
    exact h.act hq (State.updPort_ports_eq hq _) rfl rfl
      ((h _ q hq).ended hoff ⟨he.1, hthr, htsr, hbrk⟩ (q.finishDir_txLine d e s.micros) rfl rfl rfl)
  | disabled q hq hph hs =>
    have hbrk : q.brk = false := by
      refine Bool.eq_false_iff.mpr fun hb => ?_
      rcases (h _ q hq).brk hb with ⟨hbreak, -⟩ | ⟨hbreak, -⟩
      · cases hs.symm.trans hbreak
      · cases hph.symm.trans hbreak
    have hoff : q.disable.txActive = false := Bool.and_false _
    refine h.act hq (State.updPort_ports_eq hq _) rfl rfl ?_
    exact
      { latch := fun _ hin => by rcases hin with hin | hin <;> cases hs.symm.trans hin
        brk := fun hb => absurd hb (ne_true_of_eq_false hbrk)
        idle := fun hidle => hidle.elim nofun fun hne => absurd rfl hne
        command := fun _ => ⟨hoff, hbrk⟩ }

/-! ### The tick and the step -/

theorem State.Quiet.tick {s : State} (h : s.Quiet) : s.tick.Quiet :=
  tick_keeps (P := State.Quiet)
    (fun _ h => h.congr rfl rfl)
    (fun _ h => h.eachPort Port.charEnd_keepsQuiet)
    (fun _ h => h.eachPort Port.idleTimer_keepsQuiet)
    (fun _ h => h.statsCountdown)
    (fun _ h => h.schedCountdown)
    (fun _ h => h.eachPort Port.dmaTransfer_keepsQuiet)
    (fun _ h => h.commandStep)
    (fun s h => h.eachPort (Port.charStart_keepsQuiet s.micros)) h

/-- A word's port field is the port of the command it selects. -/
theorem portField_of_decode {w : Word} {i : Instr} (h : decode w = .ok i) : portField w = i.portBits := by
  obtain ⟨j, hrow, rfl⟩ := decode_ok h
  rw [← portField_encode, encode_readFrom hrow]

theorem State.Quiet.answered {s t : State} (h : s.Quiet) (ha : Answered s t) : t.Quiet := by
  obtain ⟨_, _, _, rfl⟩ := ha
  exact h.congr rfl rfl

/-- A write to CMD is accepted with no command in progress, and the new command word names the port of the new command. -/
theorem WriteEffect.quiet {v : Word} {s t : State} (h : s.Quiet) (hidle : s.busy = false → s.cmdPhase = .none)
    (hw : WriteEffect v s t) : t.Quiet := by
  cases hw with
  | answered ha => exact h.answered ha
  | arg hb => exact h.congr rfl rfl
  | pbuf hb i hi => exact h.congr rfl rfl
  | rejected hb e => exact h.rest (.inl (hidle hb)) (.inl rfl) rfl rfl
  | command hb i hd hc =>
    have hload : (State.load v { s with busErr := false }).Quiet :=
      h.rest (.inl (hidle hb)) (.inl (hidle hb)) rfl rfl
    exact hc.quiet hload (hidle hb) (congrArg BitVec.toNat (portField_of_decode hd))

theorem runEvent_quiet {e : Event} {s t : State} (h : s.Quiet) (hidle : s.busy = false → s.cmdPhase = .none)
    (he : runEvent e s = .next t) : t.Quiet := by
  cases e with
  | reset =>
    obtain rfl := Host.Outcome.next.inj he
    exact (State.afterReset_atReset s.ports.length (s.resets + 1)).quiet.congr rfl rfl
  | tick => exact Host.Outcome.next.inj he ▸ h.tick
  | hostRead addr => exact h.answered (Host.Outcome.next.inj he ▸ hostRead_answered addr s)
  | hostWrite addr v => exact (hostWrite_cases he).quiet h hidle
  | lineError p => exact Host.Outcome.next.inj he ▸ h.updPort Port.lineError_keepsQuiet
  | lineMark p => exact Host.Outcome.next.inj he ▸ h.updPort Port.lineMark_keepsQuiet
  | lineChar p v => exact Host.Outcome.next.inj he ▸ h.updPort (Port.lineChar_keepsQuiet s.micros v)

/-- Settles O58: every event keeps the block quiet, given that BUSY is set while a command is in progress; and with no command in
progress quietness is stillness of the ports that do not transmit. -/
theorem everyStepKeepsIdlePortsQuiet : Obligations.EveryStepKeepsIdlePortsQuiet := by
  constructor
  · intro s t hlegal hquiet hstep
    obtain ⟨e, rest, _, he⟩ := step_cases hstep
    refine runEvent_quiet (s := { s with inputs := rest }) (hquiet.congr rfl rfl) (fun hb => ?_) he
    exact not_not.mp fun hne => absurd (hlegal.busy.mpr hne) (ne_true_of_eq_false hb)
  · intro s hquiet hnone q hq
    exact ((quiet_iff_of_resting (.inl hnone)).mp hquiet q hq).still

end Sys2Proof.Machine
end

section
/-! The canonical form of memory (log entry 4): an operation either leaves the buffers it finds as they are, or stores to one of
them, and a store keeps the form; then every step keeps it. -/

namespace Sys2Proof.Machine

/-! ### Operations on a port that write no buffer -/

theorem Port.lineError_memory (q : Port) : q.lineError.memory = q.memory := by
  unfold Port.lineError
  split_ifs <;> rfl

theorem Port.lineMark_memory (q : Port) : q.lineMark.memory = q.memory := by
  unfold Port.lineMark
  split_ifs <;> rfl

theorem Port.charEnd_memory (q : Port) : q.charEnd.memory = q.memory := by
  unfold Port.charEnd
  split_ifs <;> rfl

theorem Port.charStart_memory (t : Micros) (q : Port) : (q.charStart t).memory = q.memory := by
  unfold Port.charStart
  split_ifs <;> rfl

theorem Port.dmaTransfer_memory (q : Port) : q.dmaTransfer.memory = q.memory := by
  unfold Port.dmaTransfer
  split_ifs <;> rfl

theorem Port.enterBreak_memory (t : Micros) (q : Port) : (q.enterBreak t).memory = q.memory := by
  rw [Port.enterBreak_eq]
  split_ifs <;> rfl

theorem Port.ifTxset_breakOff_memory (t : Micros) (q : Port) : (q.ifTxset (Port.breakOff t)).memory = q.memory := by
  unfold Port.ifTxset
  split_ifs <;> rfl

theorem Port.startStaged_memory (q : Port) : q.startStaged.memory = q.memory := by
  rw [Port.startStaged_eq]
  split_ifs <;> rfl

theorem Port.switchTo_memory (d : Dir) (t : Micros) (q : Port) : (q.switchTo d t).memory = q.memory := by
  unfold Port.switchTo
  rw [Port.emitSwitch_eq]
  dsimp only
  split_ifs <;> rfl

/-! ### The canonical form of the block -/

theorem Port.MemoryWf.of_memory {q r : Port} (h : q.MemoryWf) (hm : r.memory = q.memory) : r.MemoryWf := by
  simp only [Port.memory, Prod.mk.injEq] at hm
  obtain ⟨htx, hdmx, hrdm⟩ := hm
  exact h.congr htx hdmx hrdm

theorem State.MemoryWf.updPort {s : State} (h : s.MemoryWf) {f : Port → Port} (hf : ∀ q, (f q).memory = q.memory) (p : Nat) :
    (s.updPort p f).MemoryWf := State.updPort_memoryWf h p fun q hq => hq.of_memory (hf q)

theorem State.MemoryWf.eachPort {s : State} (h : s.MemoryWf) {f : Port → Port} (hf : ∀ q, (f q).memory = q.memory) :
    (s.eachPort f).MemoryWf := State.eachPort_memoryWf h fun q hq => hq.of_memory (hf q)

theorem State.MemoryWf.complete {s : State} (h : s.MemoryWf) (e : ErrCode) (v : Bool) (r0 r1 : Word) :
    (s.complete e v r0 r1).MemoryWf := h.congr rfl rfl rfl

theorem State.MemoryWf.finishDir {s : State} (h : s.MemoryWf) (p : Nat) (d : Dir) (e : Bool) : (s.finishDir p d e).MemoryWf :=
  (h.updPort (Port.finishDir_memory d e s.micros) p).complete _ _ _ _

/-- A getter stores the entry it fetches to RBUF. -/
theorem State.MemoryWf.getter {s : State} (h : s.MemoryWf) (bs : List Byte) (p : Nat) {f : Port → Port}
    (hf : ∀ q, (f q).memory = q.memory) (r0 r1 : Word) :
    (((s.storeRbuf 0 bs).updPort p f).complete .none true r0 r1).MemoryWf :=
  ((State.storeRbuf_memoryWf h 0 bs).updPort hf p).complete _ _ _ _

theorem State.MemoryWf.deliver {s : State} (h : s.MemoryWf) (p : Nat) (q : Port) : (s.deliver p q).MemoryWf :=
  h.getter _ p (by exact fun _ => rfl) _ _

/-! ### Accepting writes -/

/-- An accepting write stores to a transmit slot (TXDATA), to RBUF (the getters), or nowhere. -/
theorem CommandEffect.memoryWf {i : Instr} {s t : State} (h : s.MemoryWf) (hc : CommandEffect i s t) : t.MemoryWf := by
  cases hc with
  | enqueued port len q n hi hq hn =>
    have hstored := State.updPort_memoryWf h port.toNat fun r hr => Port.enqueueFrame_memoryWf hr n s.pbuf
    exact hstored.congr rfl rfl rfl
  | enabled p q hp hq hd => exact (h.updPort (f := Port.enable) (fun _ => rfl) p).complete _ _ _ _
  | turned p q d e hp hq ht hd => exact (h.updPort Port.drainNow_memory p).finishDir p d e
  | fetched port q r0 r1 n hi hq hr hn => exact h.getter _ _ (by exact fun _ => rfl) r0 r1
  | delivered port q t0 hi hq hr => exact State.MemoryWf.deliver (s := { s with cmdT0 := t0 }) (h.congr rfl rfl rfl) _ q
  | _ => exact h.congr rfl rfl rfl

/-! ### Phases of the command in progress -/

/-- RDM_SEND stores the transaction number and the checksum to PBUF. -/
theorem State.MemoryWf.prepareRaw {s : State} (h : s.MemoryWf) (k : RawSend) (p : Nat) (q : Port) :
    (s.prepareRaw k p q).MemoryWf := by
  cases k with
  | sendraw | respondRaw => exact h
  | send => exact State.storePbuf_memoryWf (State.storePbuf_memoryWf h _ _) _ _
  | respondDisc => exact h.updPort (fun r => Port.switchTo_memory .output s.micros r.stopReceive.disable) p

theorem State.MemoryWf.startBreak {s : State} (h : s.MemoryWf) (p : Nat) : (s.startBreak p).MemoryWf :=
  (h.updPort (f := Port.breakOn s.micros) (fun _ => rfl) p).congr rfl rfl rfl

theorem State.MemoryWf.firstByte {s : State} (h : s.MemoryWf) (p : Nat) : (s.firstByte p).MemoryWf :=
  (h.updPort (f := Port.loadThr (s.pbuf.read 0)) (fun _ => rfl) p).congr rfl rfl rfl

theorem State.MemoryWf.beginRaw {s : State} (h : s.MemoryWf) (k : RawSend) (p : Nat) (q : Port) :
    (s.beginRaw k p q).MemoryWf := by
  have hprepared : ((s.prepareRaw k p q).updPort p fun q => { q with lastSendTs := s.micros }).MemoryWf :=
    (h.prepareRaw k p q).updPort (by exact fun _ => rfl) p
  cases k with
  | sendraw | send | respondRaw => exact hprepared.startBreak p
  | respondDisc => exact hprepared.firstByte p

theorem State.MemoryWf.endRaw {s : State} (h : s.MemoryWf) (k : RawSend) (p : Nat) : (s.endRaw k p).MemoryWf := by
  cases k with
  | sendraw | respondRaw => exact h.complete _ _ _ _
  | send => exact (h.updPort (by exact fun _ => rfl) p).complete _ _ _ _
  | respondDisc => exact h.congr rfl rfl rfl

theorem State.MemoryWf.commandStep {s : State} (h : s.MemoryWf) : s.commandStep.MemoryWf := by
  generalize hu : s.commandStep = u
  cases hu ▸ commandStep_cases s with
  | held => exact h
  | broke q k hk hq hph => exact h.beginRaw k _ q
  | responded q hq hph => exact h.beginRaw .respondDisc _ q
  | marked q hq hph => exact (h.updPort (f := Port.breakOff s.micros) (fun _ => rfl) _).congr rfl rfl rfl
  | started q hq hph => exact h.firstByte _
  | sent q hq hph hf =>
    exact (h.updPort (f := Port.loadThr (s.pbuf.read s.cmdPos.toNat)) (fun _ => rfl) _).congr rfl rfl rfl
  | drained q k hq hph he => exact h.endRaw k _
  | returned q hq hph =>
    exact (h.updPort (f := fun r => (Port.switchTo .input s.micros r).enable)
      (fun r => r.switchTo_memory .input s.micros) _).complete _ _ _ _
  | disabled q hq hph hs => exact (h.updPort (f := Port.disable) (fun _ => rfl) _).congr rfl rfl rfl
  | switched q d e hq hph he hd => exact h.finishDir _ d e
  | delivered q hq hph hr => exact h.deliver _ q
  | timedOut hph => exact h.complete _ _ _ _

/-! ### The scheduler, the tick and the step -/

theorem State.MemoryWf.statsCountdown {s : State} (h : s.MemoryWf) : s.statsCountdown.MemoryWf := by
  unfold State.statsCountdown
  dsimp only
  split_ifs
  · exact (h.eachPort (f := Port.latchUps) fun _ => rfl).congr rfl rfl rfl
  · exact h.congr rfl rfl rfl

theorem State.MemoryWf.schedTick {s : State} (h : s.MemoryWf) : s.schedTick.MemoryWf := by
  have hbreak : s.enterBreak.MemoryWf := by
    rw [enterBreak_eq]
    exact (h.eachPort (Port.enterBreak_memory s.micros)).congr rfl rfl rfl
  unfold State.schedTick
  cases s.schedState with
  | idle | data | interFrame => exact hbreak
  | brk => exact (h.eachPort (Port.ifTxset_breakOff_memory s.micros)).congr rfl rfl rfl
  | mab => exact (h.eachPort Port.startStaged_memory).congr rfl rfl rfl

theorem State.MemoryWf.schedCountdown {s : State} (h : s.MemoryWf) : s.schedCountdown.MemoryWf := by
  rw [schedCountdown_eq]
  split_ifs
  · rw [schedTick_schedTimer]
    exact h.schedTick
  · exact h.congr rfl rfl rfl

/-- Of the substeps of a tick only T3, which stamps the record it closes, and T7, which may store, write to memory. -/
theorem State.MemoryWf.tick {s : State} (h : s.MemoryWf) : s.tick.MemoryWf :=
  tick_keeps (P := State.MemoryWf)
    (fun _ h => h.congr rfl rfl rfl)
    (fun _ h => h.eachPort Port.charEnd_memory)
    (fun _ h => State.eachPort_memoryWf h fun _ => Port.idleTimer_memoryWf)
    (fun _ h => h.statsCountdown)
    (fun _ h => h.schedCountdown)
    (fun _ h => h.eachPort Port.dmaTransfer_memory)
    (fun _ h => h.commandStep)
    (fun s h => h.eachPort (Port.charStart_memory s.micros)) h

/-- Settles O60, event by event: a step writes memory by stores only, which keep the form, or starts it anew at a reset. -/
theorem everyStepKeepsMemoryCanonical : Obligations.EveryStepKeepsMemoryCanonical := by
  intro s t hs hstep
  refine step_keeps (P := State.MemoryWf) ?inputs ?answered ?arg ?pbuf ?rejected ?command ?reset ?tick ?line hs hstep
  case inputs => exact fun _ _ h => h.congr rfl rfl rfl
  case answered => rintro s _ h ⟨_, _, _, rfl⟩; exact h.congr rfl rfl rfl
  case arg => exact fun _ _ h _ => h.congr rfl rfl rfl
  case pbuf =>
    exact fun s i v h _ _ => State.storePbuf_memoryWf (s := { s with busErr := false }) (h.congr rfl rfl rfl) i (wordBytes v)
  case rejected => exact fun _ _ _ h _ => h.congr rfl rfl rfl
  case command => exact fun s t v i h _ _ hc => hc.memoryWf (s := State.load v { s with busErr := false }) (h.congr rfl rfl rfl)
  case reset => exact fun s _ => (State.afterReset_memoryWf s.ports.length (s.resets + 1)).congr rfl rfl rfl
  case tick => exact fun _ h => h.tick
  case line =>
    rintro s p f h (rfl | rfl | ⟨v, rfl⟩)
    · exact h.updPort Port.lineError_memory p
    · exact h.updPort Port.lineMark_memory p
    · exact State.updPort_memoryWf h p fun _ hq => Port.lineChar_memoryWf hq s.micros v

end Sys2Proof.Machine
end
